-- ==== Sys2Proof/Word.lean ====
section
/-! DEFINITION. The widths the spec names (00_scope.md section 5): a byte is 8 bits, a nibble is 4 bits, a raw sample is
10 bits. -/

namespace Sys2Proof

/-- A byte, 8 bits (00_scope.md section 5). -/
abbrev Byte := BitVec 8

/-- A nibble, "a 4-bit half of an 8-bit value" (00_scope.md section 6). -/
abbrev Nibble := BitVec 4

/-- A RawSample, "an unsigned integer in [0, 1023] (10 bits)" (00_scope.md section 6, rule R7). -/
abbrev Sample := BitVec 10

end Sys2Proof
end

