-- ==== Sys2Proof/Syntax.lean ====
section
/-! DEFINITION. The operations and wire formats of spec/opcode_table.json as one inductive, one constructor a row, and the
operand types they need (30_encoding.md sections 2 to 7). -/

namespace Sys2Proof

/-- The three bytes of one bus exchange, byte 0 first: a command frame (rule R71) or a response (rule R73). -/
structure Frame where
  b0 : Byte
  b1 : Byte
  b2 : Byte
deriving DecidableEq, Repr

/-- The line selector LSEL: LINE_1 or LINE_2 (rule R82). -/
inductive LineSel where
  | line1
  | line2
deriving DecidableEq, Repr

/-- A rational operand: "a signed integer numerator over a positive integer denominator" (rule R131). The denominator is held
as its predecessor, so that no value of the type has a denominator that is not positive. -/
structure Frac where
  num : Int
  denPred : Nat
deriving DecidableEq, Repr

/-- The SensorModel operand of CONVERT with its four fields (rule R131). -/
structure SensorModel where
  referenceVoltage : Frac
  fullScaleCode : Int
  scale : Frac
  offset : Frac
deriving DecidableEq, Repr

/-- The value that follows status OK (rule R84): none for a display operation, the sample for READ_CHANNEL, the integer TQ for
CONVERT. -/
inductive OkValue where
  | none
  | sample (v : Sample)
  | temperature (tq : Int)
deriving DecidableEq, Repr

/-- The rows of spec/opcode_table.json, in the table's order. -/
inductive Instr where
  /-- READ_CHANNEL, `readChannel(channel)`: the channel is an integer, legal in [0, 7] (rules R85, R110). -/
  | readChannel (channel : Int)
  /-- CONVERT, `convert(sample, model)` with the number of decimal places (rule R130). -/
  | convert (sample : Sample) (model : SensorModel) (places : Nat)
  /-- LCD_INIT, `initialize()` (rule R172). -/
  | lcdInit
  /-- LCD_CLEAR, `clear()` (rule R173). -/
  | lcdClear
  /-- LCD_WRITE_LINE, `writeLine(text, lineAddress)` (rule R174). -/
  | lcdWriteLine (text : List Byte) (line : LineSel)
  /-- The reserved request code 0b101 (rule R85). -/
  | reservedOpc5
  /-- The reserved request code 0b110 (rule R85). -/
  | reservedOpc6
  /-- The reserved request code 0b111 (rule R85). -/
  | reservedOpc7
  /-- SEND_BYTE, `sendByte(value, isData)`, internal (rule R162). -/
  | sendByte (value : Byte) (isData : Bool)
  /-- PUT_NIBBLE, internal (rule R165). -/
  | putNibble (n : Nibble)
  /-- STROBE, internal, no operand (rule R167). -/
  | strobe
  /-- ADC_CMD, the command frame of one channel (rule R71). -/
  | adcCmd (channel : BitVec 3)
  /-- ADC_RSP, the response bytes of an exchange (rule R73). -/
  | adcRsp (response : Frame)
  /-- LCD_CMD_INIT0, the command byte 0x33 (rule R76). -/
  | lcdCmdInit0
  /-- LCD_CMD_INIT1, the command byte 0x32 (rule R76). -/
  | lcdCmdInit1
  /-- LCD_CMD_INIT2, the command byte 0x06 (rule R76). -/
  | lcdCmdInit2
  /-- LCD_CMD_INIT3, the command byte 0x0C (rule R76). -/
  | lcdCmdInit3
  /-- LCD_CMD_INIT4, the command byte 0x28 (rule R76). -/
  | lcdCmdInit4
  /-- LCD_CMD_CLEAR, the command byte 0x01 (rule R76). -/
  | lcdCmdClear
  /-- LCD_CMD_SET_LINE_1, the command byte 0x80 (rule R76). -/
  | lcdCmdSetLine1
  /-- LCD_CMD_SET_LINE_2, the command byte 0xC0 (rule R76). -/
  | lcdCmdSetLine2
  /-- LCD_DATA, a data byte; every one of the 256 values is legal (rules R76, R81). -/
  | lcdData (code : Byte)
  /-- STATUS_OK with the value that follows it (rule R84). -/
  | statusOk (value : OkValue)
  /-- STATUS_INVALID_ARGUMENT (rules R84, R201). -/
  | statusInvalidArgument
  /-- STATUS_BUS_FAILURE (rules R84, R201). -/
  | statusBusFailure
  /-- STATUS_PIN_FAILURE (rules R84, R201). -/
  | statusPinFailure
  /-- STATUS_NOT_READY (rules R84, R201). -/
  | statusNotReady
  /-- The reserved status 5, "never produced" (rule R84). -/
  | reservedStatus5
  /-- The reserved status 6, "never produced" (rule R84). -/
  | reservedStatus6
  /-- The reserved status 7, "never produced" (rule R84). -/
  | reservedStatus7
deriving DecidableEq, Repr

end Sys2Proof
end

