-- ==== Sys2Proof/Config.lean ====
section
/-! DEFINITION. What an implementation fixes: the fixed values of rule R7, the width of the channel operand at the request
port, and the two sensor models the source mentions (rule R145). The configuration record CFG is part of State. -/

namespace Sys2Proof.Config

/-- The six command bytes of initialisation, in order (rules R7, R172). -/
def initSequence : List Byte := [0x33, 0x32, 0x06, 0x0C, 0x28, 0x01]

/-- The clear command byte (rules R7, R76). -/
def clearByte : Byte := 0x01

/-- The byte sent for a padding space (rules R7, R80). -/
def padByte : Byte := 0x20

/-- Character cells of one display line (rule R7). -/
def lcdCols : Nat := 16

/-- The command byte that selects row 1 (rules R7, R76). -/
def line1Byte : Byte := 0x80

/-- The command byte that selects row 2 (rules R7, R76). -/
def line2Byte : Byte := 0xC0

/-- What a blank cell of the reference display holds: the space code. PRESUMED, unsafe: 20_memory.md R52, general knowledge
(entry 10). -/
def blankByte : Byte := 0x20

/-- CH_WIDTH, the width of the channel operand at the request port, at least 4 (rule R7). DESIGN CHOICE, safe: 13 bits, so that
the op code and the operand fill two bytes (entry 3). -/
def chWidth : Nat := 13

/-- The shortest legal T_SETTLE and T_PULSE in microseconds (rules R7, R13). -/
def minDelay : Nat := 500

/-- MODEL_10MV of rule R145. -/
def model10mV : SensorModel := ⟨⟨33, 9⟩, 1023, ⟨100, 0⟩, ⟨0, 0⟩⟩

/-- MODEL_SPAN of rule R145. -/
def modelSpan : SensorModel := ⟨⟨33, 9⟩, 1023, ⟨100, 0⟩, ⟨-50, 0⟩⟩

end Sys2Proof.Config
end

