-- ==== Sys2Proof/WellFormed.lean ====
section
/-! DEFINITION. Which instructions can be presented in their wire format. Every operand type but the channel's holds legal
values only (rule R86: what cannot be presented is left out by construction); the channel operand is an integer (92_eei_decisions.md
D8) and the request port carries CH_WIDTH unsigned bits of it. -/

namespace Sys2Proof

/-- A channel that the request port can carry (rule R83: "CH (unsigned, CH_WIDTH >= 4 bits)"). A channel outside this range can
still be run; it has no request word. -/
def channelPresentable (channel : Int) : Bool :=
  decide (0 ≤ channel) && decide (channel < 2 ^ Config.chWidth)

/-- Whether an instruction has an encoding. -/
def Instr.wellFormed : Instr → Bool
  | .readChannel channel => channelPresentable channel
  | .convert _ _ _ => true
  | .lcdInit => true
  | .lcdClear => true
  | .lcdWriteLine _ _ => true
  | .reservedOpc5 => true
  | .reservedOpc6 => true
  | .reservedOpc7 => true
  | .sendByte _ _ => true
  | .putNibble _ => true
  | .strobe => true
  | .adcCmd _ => true
  | .adcRsp _ => true
  | .lcdCmdInit0 => true
  | .lcdCmdInit1 => true
  | .lcdCmdInit2 => true
  | .lcdCmdInit3 => true
  | .lcdCmdInit4 => true
  | .lcdCmdClear => true
  | .lcdCmdSetLine1 => true
  | .lcdCmdSetLine2 => true
  | .lcdData _ => true
  | .statusOk _ => true
  | .statusInvalidArgument => true
  | .statusBusFailure => true
  | .statusPinFailure => true
  | .statusNotReady => true
  | .reservedStatus5 => true
  | .reservedStatus6 => true
  | .reservedStatus7 => true

end Sys2Proof
end

