-- ==== Sys2Proof/Decode.lean ====
section
/-! DEFINITION. The decoder and, after it, the encoder of the wire formats (30_encoding.md). A word has a meaning only in its
format: the table's patterns overlap across formats (rule R70 lists the formats), so a packet names the format it stands in. -/

namespace Sys2Proof

/-- The format a packet stands in (rule R70). `lcdByte` holds a byte of the command map or a data byte (rule R76); `sendByte`
holds the operands of the internal SEND_BYTE, of which the command map is a part (rule R163). -/
inductive Port where
  | hostReq
  | hostRsp
  | sendByte
  | lcdByte
  | nibble
  | strobe
  | adcCmd
  | adcRsp
deriving DecidableEq, Repr

/-- A word of one format, as bytes. -/
structure Packet where
  port : Port
  bytes : List Byte
deriving DecidableEq, Repr

/-- Why a packet is no instruction. -/
inductive DecodeError where
  /-- The bytes end before the operands do. -/
  | truncated
  /-- A bit that the format leaves unused is 1. -/
  | strayBits
  /-- Bytes follow the operands that may not stand there: any byte in a format of fixed length (rule R70), a byte that is no zero padding
  at the request port. -/
  | trailingBytes
  /-- Three bytes that are no frame of rule R71. -/
  | notACommandFrame
  /-- A command byte outside the command map of rule R76 ("The core sends no other command byte"). -/
  | unknownCommandByte
  /-- A response whose value is of no kind of rule R84. -/
  | unknownValueKind
deriving DecidableEq, Repr

/-- Reads a natural number of any size: seven bits a byte, least significant first, the top bit set on all bytes but the last.
DESIGN CHOICE, safe: the spec gives the operands of CONVERT and the length of TEXT no width (entry 3). -/
def decodeNat : List Byte → Option (Nat × List Byte)
  | [] => none
  | b :: rest =>
    if b.toNat < 128 then some (b.toNat, rest)
    else
      match decodeNat rest with
      | none => none
      | some (n, left) => some (b.toNat - 128 + 128 * n, left)

/-- The signed integer that a natural number stands for: even numbers count up from 0, odd ones down from -1 (entry 3). -/
def intOfNat (n : Nat) : Int :=
  if n % 2 = 0 then ((n / 2 : Nat) : Int) else -(((n + 1) / 2 : Nat) : Int)

/-- Reads a signed integer of any size (entry 3). -/
def decodeInt (bytes : List Byte) : Option (Int × List Byte) :=
  match decodeNat bytes with
  | none => none
  | some (n, left) => some (intOfNat n, left)

/-- Reads a rational: numerator, then the predecessor of the denominator (rule R131, entry 3). -/
def decodeFrac (bytes : List Byte) : Option (Frac × List Byte) :=
  match decodeInt bytes with
  | none => none
  | some (num, left) =>
    match decodeNat left with
    | none => none
    | some (denPred, left') => some (⟨num, denPred⟩, left')

/-- Reads the four fields of a SensorModel in the order of rule R131. -/
def decodeModel (bytes : List Byte) : Option (SensorModel × List Byte) :=
  match decodeFrac bytes with
  | none => none
  | some (vref, l1) =>
    match decodeInt l1 with
    | none => none
    | some (full, l2) =>
      match decodeFrac l2 with
      | none => none
      | some (scale, l3) =>
        match decodeFrac l3 with
        | none => none
        | some (offset, l4) => some (⟨vref, full, scale, offset⟩, l4)

/-- Reads a TEXT operand: "length, then bytes" (rule R83). -/
def decodeText (bytes : List Byte) : Option (List Byte × List Byte) :=
  match decodeNat bytes with
  | none => none
  | some (n, left) => if n ≤ left.length then some (left.take n, left.drop n) else none

/-- What a decoder of one format answers: the instruction and the bytes after it, or why there is none. -/
abbrev Decoded := Except DecodeError (Instr × List Byte)

/-- READ_CHANNEL: CH is the CH_WIDTH bits after the op code (rule R83); `low` are its first five. -/
def decodeReadChannel (low : Nat) : List Byte → Decoded
  | [] => .error .truncated
  | b :: rest => .ok (.readChannel ((low + 32 * b.toNat : Nat) : Int), rest)

/-- CONVERT: SAMPLE is the 10 bits after the op code, then MODEL and PLACES (rule R83); `low` are SAMPLE's first five. -/
def decodeConvert (low : Nat) : List Byte → Decoded
  | [] => .error .truncated
  | b :: rest =>
    if 32 ≤ b.toNat then .error .strayBits
    else
      match decodeModel rest with
      | none => .error .truncated
      | some (model, left) =>
        match decodeNat left with
        | none => .error .truncated
        | some (places, left') => .ok (.convert (BitVec.ofNat 10 (low + 32 * b.toNat)) model places, left')

/-- LCD_WRITE_LINE: LSEL is the bit after the op code, 0 for LINE_1 and 1 for LINE_2, then TEXT (rule R83). -/
def decodeWriteLine (low : Nat) (bytes : List Byte) : Decoded :=
  if 2 ≤ low then .error .strayBits
  else
    match decodeText bytes with
    | none => .error .truncated
    | some (text, left) => .ok (.lcdWriteLine text (if low = 0 then .line1 else .line2), left)

/-- An instruction without operands, whose other bits must be 0. -/
def decodePlain (i : Instr) (low : Nat) (bytes : List Byte) : Decoded :=
  if low = 0 then .ok (i, bytes) else .error .strayBits

/-- A request: the 3-bit op code in the low bits of the first byte, then the operands (rule R83). What follows a reserved op
code has no meaning and is dropped (rule R85). -/
def decodeHostReq : List Byte → Decoded
  | [] => .error .truncated
  | b :: rest =>
    match b.toNat % 8 with
    | 0 => decodeReadChannel (b.toNat / 8) rest
    | 1 => decodeConvert (b.toNat / 8) rest
    | 2 => decodePlain .lcdInit (b.toNat / 8) rest
    | 3 => decodePlain .lcdClear (b.toNat / 8) rest
    | 4 => decodeWriteLine (b.toNat / 8) rest
    | 5 => .ok (.reservedOpc5, [])
    | 6 => .ok (.reservedOpc6, [])
    | _ => .ok (.reservedOpc7, [])

/-- The value after status OK (rule R84); `kind` says which of the three the value is. DESIGN CHOICE, safe: the spec's port
leaves the kind to the host, which knows what it asked (entry 4). -/
def decodeOkValue (kind : Nat) (bytes : List Byte) : Decoded :=
  match kind with
  | 0 => .ok (.statusOk .none, bytes)
  | 1 =>
    match bytes with
    | b0 :: b1 :: rest =>
      if 4 ≤ b1.toNat then .error .strayBits
      else .ok (.statusOk (.sample (BitVec.ofNat 10 (b0.toNat + 256 * b1.toNat))), rest)
    | _ => .error .truncated
  | 2 =>
    match decodeInt bytes with
    | none => .error .truncated
    | some (tq, rest) => .ok (.statusOk (.temperature tq), rest)
  | _ => .error .unknownValueKind

/-- A response: the 3-bit status in the low bits of the first byte, then, for OK only, the value (rule R84). -/
def decodeHostRsp : List Byte → Decoded
  | [] => .error .truncated
  | b :: rest =>
    match b.toNat % 8 with
    | 0 => decodeOkValue (b.toNat / 8) rest
    | 1 => decodePlain .statusInvalidArgument (b.toNat / 8) rest
    | 2 => decodePlain .statusBusFailure (b.toNat / 8) rest
    | 3 => decodePlain .statusPinFailure (b.toNat / 8) rest
    | 4 => decodePlain .statusNotReady (b.toNat / 8) rest
    | 5 => decodePlain .reservedStatus5 (b.toNat / 8) rest
    | 6 => decodePlain .reservedStatus6 (b.toNat / 8) rest
    | _ => decodePlain .reservedStatus7 (b.toNat / 8) rest

/-- The operands of SEND_BYTE: VAL, then ISDATA as bit 8 (rule R75). -/
def decodeSendByte : List Byte → Decoded
  | v :: r :: rest => if 2 ≤ r.toNat then .error .strayBits else .ok (.sendByte v (r.toNat == 1), rest)
  | _ => .error .truncated

/-- The command map (rule R76). -/
def commandOf (v : Byte) : Option Instr :=
  if v = 0x33 then some .lcdCmdInit0
  else if v = 0x32 then some .lcdCmdInit1
  else if v = 0x06 then some .lcdCmdInit2
  else if v = 0x0C then some .lcdCmdInit3
  else if v = 0x28 then some .lcdCmdInit4
  else if v = 0x01 then some .lcdCmdClear
  else if v = 0x80 then some .lcdCmdSetLine1
  else if v = 0xC0 then some .lcdCmdSetLine2
  else none

/-- A protocol byte on the wire: a byte of the command map or a data byte (rules R75, R76). -/
def decodeLcdByte : List Byte → Decoded
  | v :: r :: rest =>
    match r.toNat with
    | 0 =>
      match commandOf v with
      | none => .error .unknownCommandByte
      | some i => .ok (i, rest)
    | 1 => .ok (.lcdData v, rest)
    | _ => .error .strayBits
  | _ => .error .truncated

/-- The operand of PUT_NIBBLE, 4 bits (rule R77). -/
def decodeNibble : List Byte → Decoded
  | [] => .error .truncated
  | b :: rest => if 16 ≤ b.toNat then .error .strayBits else .ok (.putNibble (b.setWidth 4), rest)

/-- STROBE: the 5-bit pattern is what the display latches and no operand (rules R77, R167, entry 16). -/
def decodeStrobe : List Byte → Decoded
  | [] => .error .truncated
  | b :: rest => if 32 ≤ b.toNat then .error .strayBits else .ok (.strobe, rest)

/-- The command frame `00000001 1ccc0000 00000000` (rule R71). -/
def decodeAdcCmd : List Byte → Decoded
  | b0 :: b1 :: b2 :: rest =>
    if b0 = 0x01 ∧ b1 &&& 0x8F = 0x80 ∧ b2 = 0x00 then .ok (.adcCmd (b1.extractLsb' 4 3), rest)
    else .error .notACommandFrame
  | _ => .error .truncated

/-- The response: any three bytes (rules R73, R74: "no response is illegal"). -/
def decodeAdcRsp : List Byte → Decoded
  | b0 :: b1 :: b2 :: rest => .ok (.adcRsp ⟨b0, b1, b2⟩, rest)
  | _ => .error .truncated

/-- The instruction of one format and the bytes after it. -/
def decodeFront : Port → List Byte → Decoded
  | .hostReq, bytes => decodeHostReq bytes
  | .hostRsp, bytes => decodeHostRsp bytes
  | .sendByte, bytes => decodeSendByte bytes
  | .lcdByte, bytes => decodeLcdByte bytes
  | .nibble, bytes => decodeNibble bytes
  | .strobe, bytes => decodeStrobe bytes
  | .adcCmd, bytes => decodeAdcCmd bytes
  | .adcRsp, bytes => decodeAdcRsp bytes

/-- Whether bytes are all zero. -/
def allZero (bytes : List Byte) : Bool := bytes.all (fun b => b == 0)

/-- Whether the bytes left after an instruction may stand there: zero padding at the request port (entry 3), and nothing in every other
format, whose length is exact (rule R70). -/
def mayFollow (port : Port) (rest : List Byte) : Bool :=
  match port with
  | .hostReq => allZero rest
  | .hostRsp => rest.isEmpty
  | .sendByte => rest.isEmpty
  | .lcdByte => rest.isEmpty
  | .nibble => rest.isEmpty
  | .strobe => rest.isEmpty
  | .adcCmd => rest.isEmpty
  | .adcRsp => rest.isEmpty

/-- The decoder: total, by format, rejecting by name. -/
def decode (p : Packet) : Except DecodeError Instr :=
  match decodeFront p.port p.bytes with
  | .error e => .error e
  | .ok (i, rest) => if mayFollow p.port rest then .ok i else .error .trailingBytes

/-! The encoder, from the same tables. -/

/-- Writes a natural number of any size (entry 3); `fuel` bounds the number of bytes. -/
def encodeNatFuel : Nat → Nat → List Byte
  | 0, n => [BitVec.ofNat 8 (n % 128)]
  | fuel + 1, n =>
    if n < 128 then [BitVec.ofNat 8 n]
    else BitVec.ofNat 8 (n % 128 + 128) :: encodeNatFuel fuel (n / 128)

/-- Writes a natural number of any size (entry 3). -/
def encodeNat (n : Nat) : List Byte := encodeNatFuel n n

/-- The natural number that stands for a signed integer (entry 3). -/
def natOfInt (z : Int) : Nat := if 0 ≤ z then 2 * z.toNat else 2 * (-z).toNat - 1

/-- Writes a signed integer of any size (entry 3). -/
def encodeInt (z : Int) : List Byte := encodeNat (natOfInt z)

/-- Writes a rational (rule R131, entry 3). -/
def encodeFrac (q : Frac) : List Byte := encodeInt q.num ++ encodeNat q.denPred

/-- Writes a SensorModel (rule R131, entry 3). -/
def encodeModel (m : SensorModel) : List Byte :=
  encodeFrac m.referenceVoltage ++ encodeInt m.fullScaleCode ++ encodeFrac m.scale ++ encodeFrac m.offset

/-- An op code or status in bits 2 to 0 and `rest` above it, as the two low bytes of one number. -/
def encodeHead (code rest : Nat) : List Byte :=
  [BitVec.ofNat 8 (code + 8 * rest), BitVec.ofNat 8 ((code + 8 * rest) / 256)]

/-- LSEL at the request port (rule R83). -/
def lineSelBit : LineSel → Nat
  | .line1 => 0
  | .line2 => 1

/-- A protocol byte as the 9-bit pattern of rule R75: VAL, then ISDATA as bit 8. -/
def encodeLcd (v : Byte) (isData : Bool) : List Byte := [v, if isData then 1 else 0]

/-- The format an instruction's word stands in (spec/opcode_table.json, "format"). -/
def portOf : Instr → Port
  | .readChannel _ => .hostReq
  | .convert _ _ _ => .hostReq
  | .lcdInit => .hostReq
  | .lcdClear => .hostReq
  | .lcdWriteLine _ _ => .hostReq
  | .reservedOpc5 => .hostReq
  | .reservedOpc6 => .hostReq
  | .reservedOpc7 => .hostReq
  | .sendByte _ _ => .sendByte
  | .putNibble _ => .nibble
  | .strobe => .strobe
  | .adcCmd _ => .adcCmd
  | .adcRsp _ => .adcRsp
  | .lcdCmdInit0 => .lcdByte
  | .lcdCmdInit1 => .lcdByte
  | .lcdCmdInit2 => .lcdByte
  | .lcdCmdInit3 => .lcdByte
  | .lcdCmdInit4 => .lcdByte
  | .lcdCmdClear => .lcdByte
  | .lcdCmdSetLine1 => .lcdByte
  | .lcdCmdSetLine2 => .lcdByte
  | .lcdData _ => .lcdByte
  | .statusOk _ => .hostRsp
  | .statusInvalidArgument => .hostRsp
  | .statusBusFailure => .hostRsp
  | .statusPinFailure => .hostRsp
  | .statusNotReady => .hostRsp
  | .reservedStatus5 => .hostRsp
  | .reservedStatus6 => .hostRsp
  | .reservedStatus7 => .hostRsp

/-- The bytes of an instruction's word in its format. -/
def encodeBytes : Instr → List Byte
  | .readChannel channel => encodeHead 0 channel.toNat
  | .convert sample model places => encodeHead 1 sample.toNat ++ encodeModel model ++ encodeNat places
  | .lcdInit => [2]
  | .lcdClear => [3]
  | .lcdWriteLine text line => BitVec.ofNat 8 (4 + 8 * lineSelBit line) :: (encodeNat text.length ++ text)
  | .reservedOpc5 => [5]
  | .reservedOpc6 => [6]
  | .reservedOpc7 => [7]
  | .sendByte value isData => encodeLcd value isData
  | .putNibble n => [n.setWidth 8]
  | .strobe => [0]
  | .adcCmd channel => [0x01, 0x80 ||| (channel.setWidth 8 <<< 4), 0x00]
  | .adcRsp response => [response.b0, response.b1, response.b2]
  | .lcdCmdInit0 => encodeLcd 0x33 false
  | .lcdCmdInit1 => encodeLcd 0x32 false
  | .lcdCmdInit2 => encodeLcd 0x06 false
  | .lcdCmdInit3 => encodeLcd 0x0C false
  | .lcdCmdInit4 => encodeLcd 0x28 false
  | .lcdCmdClear => encodeLcd 0x01 false
  | .lcdCmdSetLine1 => encodeLcd 0x80 false
  | .lcdCmdSetLine2 => encodeLcd 0xC0 false
  | .lcdData code => encodeLcd code true
  | .statusOk .none => [0]
  | .statusOk (.sample v) => [8, BitVec.ofNat 8 v.toNat, BitVec.ofNat 8 (v.toNat / 256)]
  | .statusOk (.temperature tq) => 16 :: encodeInt tq
  | .statusInvalidArgument => [1]
  | .statusBusFailure => [2]
  | .statusPinFailure => [3]
  | .statusNotReady => [4]
  | .reservedStatus5 => [5]
  | .reservedStatus6 => [6]
  | .reservedStatus7 => [7]

/-- The encoder: the packet of an instruction. -/
def encode (i : Instr) : Packet := ⟨portOf i, encodeBytes i⟩

/-! The words of the opcode table as packets. -/

/-- The low byte of a number. -/
def byteOf (w : Nat) : Byte := BitVec.ofNat 8 w

/-- Zero bytes that stand for the operand words the table gives no bits. -/
def zeroOperands : List Byte := List.replicate 15 0

/-- The packet that holds a word of spec/opcode_table.json. The table's patterns of 3 bits stand both for requests and for
responses, and those of 24 bits both for commands and for responses: a word of up to 8 bits is taken as a request, one of 9 bits as
a protocol byte (as SEND_BYTE's operands where the command map has no such byte), one of 24 bits as a command frame where it is
one and as a response otherwise. DESIGN CHOICE, safe (entry 5). -/
def tablePacket (nbits w : Nat) : Option Packet :=
  if nbits ≤ 8 then some ⟨.hostReq, byteOf w :: zeroOperands⟩
  else if nbits ≤ 16 then
    let bytes := [byteOf w, byteOf (w / 256)]
    match decode ⟨.lcdByte, bytes⟩ with
    | .ok _ => some ⟨.lcdByte, bytes⟩
    | .error _ => some ⟨.sendByte, bytes⟩
  else if nbits ≤ 24 then
    let bytes := [byteOf (w / 65536), byteOf (w / 256), byteOf w]
    match decode ⟨.adcCmd, bytes⟩ with
    | .ok _ => some ⟨.adcCmd, bytes⟩
    | .error _ => some ⟨.adcRsp, bytes⟩
  else none

/-- The instruction the decoder reads from a word of the opcode table. -/
def decodeTableWord (nbits w : Nat) : Option Instr :=
  match tablePacket nbits w with
  | none => none
  | some p =>
    match decode p with
    | .ok i => some i
    | .error _ => none

end Sys2Proof
end

