-- ==== Sys2Proof/Machine/State.lean ====
section
/-! DEFINITION. The state of the core (10_state.md), its outputs, and the environment it runs against: the host's requests, the
answers of the bus and the pins, and the reference display of 20_memory.md. Plain data throughout. -/

namespace Sys2Proof.Machine

/-- The six output lines (rule R43). -/
inductive Line where
  | rs
  | e
  | db0
  | db1
  | db2
  | db3
deriving DecidableEq, Repr

/-- The two values of a line (00_scope.md section 5). -/
inductive Level where
  | low
  | high
deriving DecidableEq, Repr

/-- What LVL holds of a line: the level last driven, or Unknown (rule R12). -/
inductive LineState where
  | low
  | high
  | unknown
deriving DecidableEq, Repr

/-- LVL, one latch for each line (rule R12). -/
structure Levels where
  rs : LineState
  e : LineState
  db0 : LineState
  db1 : LineState
  db2 : LineState
  db3 : LineState
deriving DecidableEq, Repr

/-- LCDST (rule R11). -/
inductive LcdState where
  | uninitialized
  | ready
deriving DecidableEq, Repr

/-- The two lengths of delay (00_scope.md section 5, `Delay(k)`). -/
inductive DelayKind where
  | settle
  | pulse
deriving DecidableEq, Repr

/-- ROUND_MODE, the tie rule of CONVERT (rules R13, R137). -/
inductive RoundMode where
  | halfEven
  | halfAway
deriving DecidableEq, Repr

/-- CFG, set by the host before the first operation and constant afterwards (rule R13). Pins and bus identifiers are names;
durations are microseconds. -/
structure Cfg where
  pinRS : Nat
  pinE : Nat
  pinDB0 : Nat
  pinDB1 : Nat
  pinDB2 : Nat
  pinDB3 : Nat
  busId : Nat
  devId : Nat
  tSettle : Nat
  tPulse : Nat
  roundMode : RoundMode
deriving DecidableEq, Repr

/-- SEQ: Idle, or an operation and the index of its next event (rule R14). -/
inductive Seq where
  | idle
  | busy (op : Instr) (k : Nat)
deriving DecidableEq, Repr

/-- The working values of one operation (rule R15). `none` is the spec's "no value". -/
structure Locals where
  txf : Option Frame := none
  rxf : Option Frame := none
  sample : Option Sample := none
  val : Option Byte := none
  isData : Option Bool := none
  nib : Option Nibble := none
  lbuf : Option (List Byte) := none
  tq : Option Int := none
deriving DecidableEq, Repr

/-- An event of the trace, one for each completed primitive call (00_scope.md section 5). -/
inductive Event where
  | xfer (tx rx : Frame)
  | xferFail (tx : Frame)
  | set (l : Line) (v : Level)
  | setFail (l : Line) (v : Level)
  | dly (k : DelayKind)
deriving DecidableEq, Repr

/-- The failures of rule R201, each a status of the response. -/
inductive Failure where
  | invalidArgument
  | busFailure
  | pinFailure
  | notReady
deriving DecidableEq, Repr

/-- A response to the host: status OK with its value, or a failure and no value (rules R84, R207). -/
inductive Response where
  | ok (value : OkValue)
  | failed (f : Failure)
deriving DecidableEq, Repr

/-- The outcomes of one `BusTransfer` (rule R46): it returns bytes, it fails, or it never returns. The bytes are a list, because an
answer of a length other than 3 is a case of its own (92_eei_decisions.md D18). -/
inductive BusAnswer where
  | returns (rx : List Byte)
  | fails
  | never
deriving DecidableEq, Repr

/-- The outcomes of one `PinSet` (rule R53). -/
inductive PinAnswer where
  | ok
  | fails
deriving DecidableEq, Repr

/-- What an environment port answers: `answers` one call after the other, and `rest` to every call after those. Every finite run
of answers is such a script (entry 6). -/
structure Script (α : Type) where
  answers : List α
  rest : α
deriving DecidableEq, Repr

/-- The display character RAM as address and byte pairs, addresses strictly rising (rule R42). An address that is not listed
reads as unknown. -/
abbrev Memory := List Host.Cell

/-- The display's cursor (rule R50): unknown, or the column of a row the next data byte is written to. -/
inductive Cursor where
  | unknown
  | at (row : LineSel) (col : Nat)
deriving DecidableEq, Repr

/-- The display's pairing of nibbles (rule R51): unknown, expecting a high nibble, or holding one with its selector. -/
inductive Half where
  | unknown
  | first
  | second (rs : Bool) (hi : Nibble)
deriving DecidableEq, Repr

/-- How much of the strobe's shape the display has seen (rule R51): lines changed since the last settle delay; settled; E raised;
E held for a pulse delay; E lowered and the closing settle delay still to come. -/
inductive StrobePhase where
  | unsettled
  | settled
  | raised
  | pulsed
  | fallen
deriving DecidableEq, Repr

/-- The reference display of rules R50 and R51: environment, not core (rule R17). `sync` counts the bootstrapping nibbles seen in
a row (rule R241, entry 12). -/
structure Display where
  cells : Memory
  cursor : Cursor
  half : Half
  strobe : StrobePhase
  sync : Nat
deriving DecidableEq, Repr

/-- The machine: the core (`lcdst` to `locals`), its outputs (`trace`, `responses`) and the environment it runs against (`inbox`,
`bus`, `pins`, `display`). -/
structure State where
  /-- LCDST (rule R11). -/
  lcdst : LcdState
  /-- LVL (rule R12). -/
  lvl : Levels
  /-- CFG (rule R13). -/
  cfg : Cfg
  /-- SEQ (rule R14). -/
  seq : Seq
  /-- TXF, RXF, SAMPLE, VAL, ISDATA, NIB, LBUF, TQ (rule R15). -/
  locals : Locals
  /-- The trace, oldest event first (rule R54). -/
  trace : List Event
  /-- The answers given to the host, oldest first (rule R84). -/
  responses : List Response
  /-- The packets to come, the host's requests among them (entry 2). -/
  inbox : List Packet
  /-- The answers of the SerialBus to come (rule R46). -/
  bus : Script BusAnswer
  /-- The answers of the PinDrivers to come (rule R53). -/
  pins : Script PinAnswer
  /-- The reference display on the six lines (rules R50, R51). -/
  display : Display
deriving DecidableEq, Repr

/-- Why the machine stops with a fault. -/
inductive Fault where
  /-- Raised by `step` where SEQ stands past the end of its operation's event list, which rule R14 rules out ("SEQ never moves
  backwards, never skips"). Safe: no step leads there. -/
  | sequencerOutOfRange
deriving DecidableEq, Repr

/-- Why the machine gives an instruction no step. -/
inductive Refusal where
  /-- An instruction without a meaning in this model, raised by `exec`. Safe. -/
  | notModelled (mnemonic : String)
  /-- An operation started while another is in progress, raised by every meaning (rule R56, "a model gives such a request no step").
  Safe. -/
  | overlappingRequest
  /-- A packet that is no instruction, raised by `step` (rule R86, "a model that takes wider types ... must refuse the
  out-of-range values by name"). Safe. -/
  | undecodable (e : DecodeError)
  /-- A status the spec reserves and never produces, raised by the three reserved status rows (rule R84). Safe. -/
  | reservedStatus (code : Nat)
deriving DecidableEq, Repr

/-- CFG at reset: the delays and the tie rule of rule R13; pins and bus identifiers are OPEN in the spec and chosen here.
DESIGN CHOICE, unsafe (entry 7). -/
def Cfg.reset : Cfg :=
  { pinRS := 0, pinE := 1, pinDB0 := 2, pinDB1 := 3, pinDB2 := 4, pinDB3 := 5, busId := 0, devId := 0,
    tSettle := 500, tPulse := 500, roundMode := .halfEven }

/-- The display as the core finds it: nothing of it is known (rules R20, R241). -/
def Display.unknown : Display :=
  { cells := [], cursor := .unknown, half := .unknown, strobe := .unsettled, sync := 0 }

/-- The machine right after reset (rules R20, R240). The environment's scripts are DESIGN CHOICE, unsafe (entry 6). -/
def State.reset : State :=
  { lcdst := .uninitialized
    lvl := ⟨.unknown, .unknown, .unknown, .unknown, .unknown, .unknown⟩
    cfg := Cfg.reset
    seq := .idle
    locals := {}
    trace := []
    responses := []
    inbox := []
    bus := ⟨[], .returns [0, 0, 0]⟩
    pins := ⟨[], .ok⟩
    display := Display.unknown }

end Sys2Proof.Machine
end

