-- ==== Sys2Proof/Machine/Memory.lean ====
section
/-! DEFINITION. The display character RAM as a list of cells: 32 cells of 8 bits, row 1 at 0x80 and row 2 at 0xC0, 16 columns a row
(rule R42). The core cannot read it (rule R17); statements about the display do. -/

namespace Sys2Proof.Machine

/-- The address of column 0 of a row: "RAM address `0x80` selects row 1, `0xC0` selects row 2" (rule R42, entry 13). -/
def rowBase : LineSel → Nat
  | .line1 => 0x80
  | .line2 => 0xC0

/-- The address of a cell. -/
def cellAddress (row : LineSel) (col : Nat) : Nat := rowBase row + col

/-- The addresses that exist: 16 columns of each row (rule R42). -/
def isCell (a : Nat) : Bool :=
  (decide (0x80 ≤ a) && decide (a < 0x90)) || (decide (0xC0 ≤ a) && decide (a < 0xD0))

/-- What a cell holds; a cell that is not listed is unknown (rules R17, R20). -/
def Memory.read : Memory → Nat → Option Byte
  | [], _ => none
  | c :: rest, a => if c.1 = a then some c.2 else Memory.read rest a

/-- Writes a cell, keeping the addresses rising. -/
def Memory.write : Memory → Nat → Byte → Memory
  | [], a, b => [(a, b)]
  | c :: rest, a, b =>
    if a < c.1 then (a, b) :: c :: rest
    else if a = c.1 then (a, b) :: rest
    else c :: Memory.write rest a b

/-- Whether every address of a list is above `a` and the list rises. -/
def Memory.risingFrom : Nat → Memory → Bool
  | _, [] => true
  | a, c :: rest => decide (a < c.1) && Memory.risingFrom c.1 rest

/-- The canonical form: addresses strictly rising, each of them a cell of the display. No entry can equal what an unlisted cell
reads as, since that is no byte. -/
def Memory.wf : Memory → Bool
  | [] => true
  | c :: rest => isCell c.1 && Memory.risingFrom c.1 rest && rest.all (fun d => isCell d.1)

/-- A row of blanks. -/
def blankRow (row : LineSel) : Memory :=
  (List.range Config.lcdCols).map (fun col => (cellAddress row col, Config.blankByte))

/-- All 32 cells blank, the effect of the clear command (rule R50). -/
def blankCells : Memory := blankRow .line1 ++ blankRow .line2

end Sys2Proof.Machine
end

