-- ==== Sys2Proof/Machine/Devices.lean ====
section
/-! DEFINITION. The reference models of the two attached devices (20_memory.md section 5): environment, not core. Where the spec says
the display's reaction is unknown, the reference display forgets what it held, so that nothing can be proved of it. -/

namespace Sys2Proof.Machine

/-! The display (rules R50, R51). -/

/-- The bit a line shows, where its level is known. -/
def lineBit : LineState → Option Bool
  | .low => some false
  | .high => some true
  | .unknown => none

/-- Everything the display holds becomes unknown (rule R180: "indeterminate visual state"; U5, U18, U19). -/
def Display.forget (_ : Display) : Display := Display.unknown

/-- The cells and the cursor become unknown: a data byte was written to an unknown place (U19). -/
def Display.forgetCells (d : Display) : Display :=
  { d with cells := [], cursor := .unknown }

/-- A data byte: "written into the character cell at the current cursor", which then moves to the next column (rule R50). What happens
past column 15 is not in the spec (U19). -/
def Display.takeData (v : Byte) (d : Display) : Display :=
  match d.cursor with
  | .unknown => d.forgetCells
  | .at row col =>
    if col < Config.lcdCols then
      { d with cells := Memory.write d.cells (cellAddress row col) v, cursor := .at row (col + 1) }
    else d.forgetCells

/-- The five bytes of the bootstrapping group, which "write no cell" (rule R50). -/
def isBootstrap (v : Byte) : Bool :=
  v == 0x33 || v == 0x32 || v == 0x06 || v == 0x0C || v == 0x28

/-- A command byte (rule R50). Where the cursor stands after the clear or after the bootstrapping bytes, and what any other
command byte does, is not in the spec (U19). -/
def Display.takeCommand (v : Byte) (d : Display) : Display :=
  if v = Config.line1Byte then { d with cursor := .at .line1 0 }
  else if v = Config.line2Byte then { d with cursor := .at .line2 0 }
  else if v = Config.clearByte then { d with cells := blankCells, cursor := .unknown }
  else if isBootstrap v then { d with cursor := .unknown }
  else d.forget

/-- One byte, with RS saying whether it is data (rule R50). -/
def Display.takeByte (rs : Bool) (v : Byte) (d : Display) : Display :=
  if rs then d.takeData v else d.takeCommand v

/-- How many nibbles of the bootstrapping 3, 3, 3, 2 (all commands) have arrived in a row (rules R52, R241, entry 12). -/
def nextSync (rs : Bool) (n : Nibble) (k : Nat) : Nat :=
  if rs then 0
  else if n = 3 then min (k + 1) 3
  else if n = 2 ∧ k = 3 then 4
  else 0

/-- The pairing of nibbles: "two consecutive latched nibbles form one byte, the first being bits 7..4" (rule R51). -/
def Display.pairNibble (rs : Bool) (n : Nibble) (d : Display) : Display :=
  match d.half with
  | .unknown => d.forgetCells
  | .first => { d with half := .second rs n }
  | .second rs0 hi => if rs0 = rs then Display.takeByte rs (hi ++ n) { d with half := .first } else d.forget

/-- One latched nibble: paired, and the bootstrapping group brings the pairing into step whatever it was (rule R241). -/
def Display.latch (rs : Bool) (n : Nibble) (d : Display) : Display :=
  if nextSync rs n d.sync = 4 then { d.pairNibble rs n with half := .first, sync := 0 }
  else { d.pairNibble rs n with sync := nextSync rs n d.sync }

/-- The nibble on DB3 to DB0, where all four levels are known (rules R51, R78). -/
def nibbleOnLines (lv : Levels) : Option Nibble :=
  match lineBit lv.db3, lineBit lv.db2, lineBit lv.db1, lineBit lv.db0 with
  | some b3, some b2, some b1, some b0 =>
    some (BitVec.ofBool b3 ++ BitVec.ofBool b2 ++ BitVec.ofBool b1 ++ BitVec.ofBool b0)
  | _, _, _, _ => none

/-- The display "takes the levels of DB3..DB0 as one nibble and the level of RS as the command/data selector" (rule R51). -/
def Display.latchLines (lv : Levels) (d : Display) : Display :=
  match lineBit lv.rs, nibbleOnLines lv with
  | some rs, some n => d.latch rs n
  | _, _ => d.forget

/-- What the display does at a change of E (rule R51): only the shape settled, raised, pulsed, fallen has a meaning. -/
def Display.seeEnable (v : Level) (d : Display) : Display :=
  match v, d.strobe with
  | .high, .settled => { d with strobe := .raised }
  | .low, .pulsed => { d with strobe := .fallen }
  | _, _ => d.forget

/-- What the display does at a write of RS or of a data line: harmless outside a strobe, an unknown nibble inside one (rule R51). -/
def Display.seeLine (d : Display) : Display :=
  match d.strobe with
  | .unsettled => d
  | .settled => { d with strobe := .unsettled }
  | .raised => d.forget
  | .pulsed => d.forget
  | .fallen => d.forget

/-- A settle delay: it settles the lines, or closes the strobe and with it the latch (rule R51). -/
def Display.seeSettle (lv : Levels) (d : Display) : Display :=
  match d.strobe with
  | .unsettled => { d with strobe := .settled }
  | .settled => d
  | .raised => d.forget
  | .pulsed => d.forget
  | .fallen => Display.latchLines lv { d with strobe := .unsettled }

/-- A pulse-width delay (rule R51). -/
def Display.seePulse (d : Display) : Display :=
  match d.strobe with
  | .unsettled => d
  | .settled => d
  | .raised => { d with strobe := .pulsed }
  | .pulsed => d.forget
  | .fallen => d.forget

/-- What the display sees of one event, given the levels on the lines after it. A failed pin write leaves it unknown (U5). -/
def Display.observe (lv : Levels) (ev : Event) (d : Display) : Display :=
  match ev with
  | .xfer _ _ => d
  | .xferFail _ => d
  | .set .e v => d.seeEnable v
  | .set .rs _ => d.seeLine
  | .set .db0 _ => d.seeLine
  | .set .db1 _ => d.seeLine
  | .set .db2 _ => d.seeLine
  | .set .db3 _ => d.seeLine
  | .setFail _ _ => d.forget
  | .dly .settle => d.seeSettle lv
  | .dly .pulse => d.seePulse

/-! The converter (rules R48, R49). -/

/-- The three response bytes for a 10-bit code: the code in its place, the 14 unused bits anything (rules R48, R49). -/
def converterResponse (code : Sample) (noise : BitVec 14) : Frame :=
  ⟨noise.extractLsb' 6 8, noise.extractLsb' 0 6 ++ code.extractLsb' 8 2, code.extractLsb' 0 8⟩

/-- The converter's answer to a command frame, given the code of each input channel (rule R48); it is described for the frames of
rule R71 only. -/
def converterAnswer (inputs : BitVec 3 → Sample) (noise : BitVec 14) (tx : Frame) : Option Frame :=
  match decode ⟨.adcCmd, [tx.b0, tx.b1, tx.b2]⟩ with
  | .ok (.adcCmd channel) => some (converterResponse (inputs channel) noise)
  | _ => none

end Sys2Proof.Machine
end

