-- ==== Sys2Proof/Machine/Ops.lean ====
section
/-! DEFINITION. The shared operations: the three primitives of the environment (`BusTransfer`, `PinSet`, `Delay`), the event trace,
and the end of an operation, with a result or with a failure. -/

namespace Sys2Proof.Machine

/-! Scripts of the environment (entry 6). -/

/-- The answer to the next call. -/
def Script.head {α : Type} (o : Script α) : α :=
  match o.answers with
  | [] => o.rest
  | a :: _ => a

/-- The script after `n` calls. -/
def Script.skip {α : Type} (n : Nat) (o : Script α) : Script α :=
  { o with answers := o.answers.drop n }

/-- Whether the next `n` pin writes complete. -/
def pinsAllow : Nat → Script PinAnswer → Bool
  | 0, _ => true
  | n + 1, o => decide (o.head = .ok) && pinsAllow n (o.skip 1)

/-! The lines. -/

/-- What LVL holds of a line after a level was driven on it (rule R12). -/
def driven : Level → LineState
  | .low => .low
  | .high => .high

/-- LVL[l] (rule R12). -/
def Levels.get (lv : Levels) : Line → LineState
  | .rs => lv.rs
  | .e => lv.e
  | .db0 => lv.db0
  | .db1 => lv.db1
  | .db2 => lv.db2
  | .db3 => lv.db3

/-- LVL[l] <- x (rule R12). -/
def Levels.put (lv : Levels) (l : Line) (x : LineState) : Levels :=
  match l with
  | .rs => { lv with rs := x }
  | .e => { lv with e := x }
  | .db0 => { lv with db0 := x }
  | .db1 => { lv with db1 := x }
  | .db2 => { lv with db2 := x }
  | .db3 => { lv with db3 := x }

/-- The pin a line is wired to (rule R13). -/
def Cfg.pinOf (c : Cfg) : Line → Nat
  | .rs => c.pinRS
  | .e => c.pinE
  | .db0 => c.pinDB0
  | .db1 => c.pinDB1
  | .db2 => c.pinDB2
  | .db3 => c.pinDB3

/-! The trace. -/

/-- `emit e`: the event enters the trace (rule R54), and the display sees it on its lines (rule R51). -/
def emit (ev : Event) (s : State) : State :=
  { s with trace := s.trace ++ [ev], display := s.display.observe s.lvl ev }

/-! The end of an operation. -/

/-- The core answers the host: SEQ <- Idle and the working values hold nothing any more (rules R14, R15, R207). -/
def answer (r : Response) (s : State) : State :=
  { s with responses := s.responses ++ [r], seq := .idle, locals := {} }

/-- The end of an operation that was run alone and has no answer of its own (entry 1): SEQ <- Idle. -/
def finish (s : State) : State :=
  { s with seq := .idle, locals := {} }

/-- What LCDST becomes when an operation fails: Uninitialized after PIN_FAILURE, otherwise unchanged (rules R177, R209). -/
def lcdstAfterFailure (f : Failure) (before : LcdState) : LcdState :=
  match f with
  | .invalidArgument => before
  | .busFailure => before
  | .pinFailure => .uninitialized
  | .notReady => before

/-- `raise F`, the one entry into a failure (rule R207): the operation stops, the host is answered with the status and no value,
SEQ <- Idle; nothing is saved, and there is no handler. There is no return from it either (rule R210): the next operation follows. -/
def raise (f : Failure) (s : State) : State :=
  answer (.failed f) { s with lcdst := lcdstAfterFailure f s.lcdst }

/-- How one primitive call left the operation: it goes on, it has ended with a failure, or it will never return. -/
inductive Progress where
  | done (s : State)
  | ended (s : State)
  | hung (s : State)
deriving DecidableEq, Repr

/-! The primitives. -/

/-- A completed pin write: LVL[l] <- v, and the event (rules R12, R53). -/
def pinSetDone (l : Line) (v : Level) (s : State) : State :=
  emit (.set l v) { s with lvl := s.lvl.put l (driven v), pins := s.pins.skip 1 }

/-- A failed pin write: LVL[l] <- Unknown, and the event (rules R12, R177). -/
def pinSetFailed (l : Line) (v : Level) (s : State) : State :=
  emit (.setFail l v) { s with lvl := s.lvl.put l .unknown, pins := s.pins.skip 1 }

/-- `PIN(l, v)`: one pin write with its failure path (rules R53, R163, R177). The write is never skipped (rule R53). -/
def pinSet (l : Line) (v : Level) (s : State) : Progress :=
  match s.pins.head with
  | .ok => .done (pinSetDone l v s)
  | .fails => .ended (raise .pinFailure (pinSetFailed l v s))

/-- `Delay(k)`, which always returns (rules R169, R212). -/
def delayFor (k : DelayKind) (s : State) : Progress :=
  .done (emit (.dly k) s)

/-- A completed exchange: RXF <- rx, and the event (rules R46, R113). -/
def busDone (tx rx : Frame) (s : State) : State :=
  emit (.xfer tx rx) { s with bus := s.bus.skip 1, locals := { s.locals with rxf := some rx } }

/-- A failed exchange (rules R46, R115). -/
def busFailed (tx : Frame) (s : State) : State :=
  raise .busFailure (emit (.xferFail tx) { s with bus := s.bus.skip 1 })

/-- `BusTransfer(tx)`: one atomic exchange (rule R46). An answer of a length other than 3 is a failure (D18); an exchange that never
returns changes nothing, now or later (rule R119). -/
def busTransfer (tx : Frame) (s : State) : Progress :=
  match s.bus.head with
  | .returns [b0, b1, b2] => .done (busDone tx ⟨b0, b1, b2⟩ s)
  | .returns _ => .ended (busFailed tx s)
  | .fails => .ended (busFailed tx s)
  | .never => .hung s

/-- A second reset: "it restores exactly the state of 10_state.md rule R20 and tells the display nothing" (rule R240). The outputs
so far and the environment stay. No step takes it: the spec describes no input that asks for it (entry 18). -/
def secondReset (s : State) : State :=
  { State.reset with
    cfg := s.cfg, trace := s.trace, responses := s.responses, inbox := s.inbox, bus := s.bus, pins := s.pins,
    display := s.display }

end Sys2Proof.Machine
end

