-- ==== Sys2Proof/Machine/Operands.lean ====
section
/-! DEFINITION. The operand forms and result computations of the three units: the command frame and the sample (30_encoding.md
sections 2 and 3), nibbles and the line buffer (sections 5 and 6), and the arithmetic of CONVERT (41_temperature_converter.md). -/

namespace Sys2Proof.Machine

/-! AdcReader. -/

/-- TXF for a channel: `[0x01, (0x08 | channel) << 4, 0x00]` (rules R71, R72, R112). -/
def commandFrame (channel : Int) : Frame :=
  ⟨0x01, (0x08 ||| BitVec.ofInt 8 channel) <<< 4, 0x00⟩

/-- SAMPLE from the response: `((response[1] & 0x03) << 8) | response[2]` (rules R74, R114). -/
def assembleSample (rx : Frame) : Sample :=
  ((rx.b1 &&& 0x03).setWidth 10 <<< 8) ||| rx.b2.setWidth 10

/-! DisplayDriver. -/

/-- `lvl(b)`: High for 1, Low for 0 (00_scope.md section 5). -/
def levelOf (b : Bool) : Level := if b then .high else .low

/-- HI(VAL), bits 7 to 4 (rule R77). -/
def highNibble (v : Byte) : Nibble := v.extractLsb' 4 4

/-- LO(VAL), bits 3 to 0 (rule R77). -/
def lowNibble (v : Byte) : Nibble := v.extractLsb' 0 4

/-- ADDR: the command byte a line selector stands for (rule R82). -/
def lineAddress : LineSel → Byte
  | .line1 => Config.line1Byte
  | .line2 => Config.line2Byte

/-- LBUF: the text padded with spaces on the right or cut to 16 cells (rule R80). -/
def lineBuffer (text : List Byte) : List Byte :=
  text.take Config.lcdCols ++
    List.replicate (Config.lcdCols - min Config.lcdCols text.length) Config.padByte

/-! TemperatureConverter. -/

/-- The denominator of a rational operand (rule R131). -/
def fracDen (q : Frac) : Int := (q.denPred : Int) + 1

/-- `P = 10^places` (rule R133). -/
def powerOfTen (places : Nat) : Int := ((10 ^ places : Nat) : Int)

/-- NUM of the integer form (rule R139). -/
def tqNum (sample : Sample) (m : SensorModel) (places : Nat) : Int :=
  powerOfTen places *
    ((sample.toNat : Int) * m.referenceVoltage.num * m.scale.num * fracDen m.offset +
      m.offset.num * m.fullScaleCode * fracDen m.referenceVoltage * fracDen m.scale)

/-- DEN of the integer form (rule R139). -/
def tqDen (m : SensorModel) : Int :=
  m.fullScaleCode * fracDen m.referenceVoltage * fracDen m.scale * fracDen m.offset

/-- `floor_div(a, b)` for a positive b: the greatest integer f with f * b <= a (rule R146). -/
def floorDiv (a b : Int) : Int := a / b

/-- RDIV: the quotient rounded to the nearest integer, a tie by ROUND_MODE (rules R137, R139). -/
def roundDiv (mode : RoundMode) (num den : Int) : Int :=
  let f := floorDiv num den
  let r := num - f * den
  if 2 * r < den then f
  else if den < 2 * r then f + 1
  else
    match mode with
    | .halfEven => if f % 2 = 0 then f else f + 1
    | .halfAway => if 0 < num then f + 1 else f

/-- TQ by the integer form (rules R136, R139): one rounding, exact until then (rule R138). -/
def temperatureCode (mode : RoundMode) (sample : Sample) (m : SensorModel) (places : Nat) : Int :=
  roundDiv mode (tqNum sample m places) (tqDen m)

/-! The same result over the rationals, as rules R134 to R137 give it; the model runs the integer form. -/

/-- The rational a fraction operand stands for (rule R131). -/
def fracValue (q : Frac) : ℚ := (q.num : ℚ) / ((fracDen q : Int) : ℚ)

/-- V (rule R134). -/
def voltageExact (sample : Sample) (m : SensorModel) : ℚ :=
  (sample.toNat : ℚ) * fracValue m.referenceVoltage / (m.fullScaleCode : ℚ)

/-- T (rule R135). -/
def temperatureExact (sample : Sample) (m : SensorModel) : ℚ :=
  voltageExact sample m * fracValue m.scale + fracValue m.offset

/-- RND (rule R137). -/
def roundExact (mode : RoundMode) (q : ℚ) : Int :=
  if q - ⌊q⌋ < 1 / 2 then ⌊q⌋
  else if 1 / 2 < q - ⌊q⌋ then ⌊q⌋ + 1
  else
    match mode with
    | .halfEven => if ⌊q⌋ % 2 = 0 then ⌊q⌋ else ⌊q⌋ + 1
    | .halfAway => if 0 < q then ⌊q⌋ + 1 else ⌊q⌋

/-- TQ = RND(T * 10^places) (rule R136). -/
def temperatureCodeExact (mode : RoundMode) (sample : Sample) (m : SensorModel) (places : Nat) : Int :=
  roundExact mode (temperatureExact sample m * (10 : ℚ) ^ places)

end Sys2Proof.Machine
end

