-- ==== Sys2Proof/Machine/Plans.lean ====
section
/-! DEFINITION. The event list of every operation (rule R14): what the sequencer goes through, one primitive call an event. -/

namespace Sys2Proof.Machine

/-- A write of a working value (rule R15). -/
inductive LocalWrite where
  | val (v : Byte)
  | isData (b : Bool)
  | nib (n : Nibble)
deriving DecidableEq, Repr

/-- A primitive call (00_scope.md section 5). -/
inductive Prim where
  | transfer (tx : Frame)
  | pin (l : Line) (v : Level)
  | delay (k : DelayKind)
deriving DecidableEq, Repr

/-- One step of an operation: the working values written just before it, and its primitive call. -/
structure Micro where
  writes : List LocalWrite
  prim : Prim
deriving DecidableEq, Repr

/-- A step that writes no working value. -/
def plain (p : Prim) : Micro := ⟨[], p⟩

/-- A pin write. -/
def pinMicro (l : Line) (v : Level) : Micro := plain (.pin l v)

/-- Puts writes of working values before the first step of a list. -/
def withWrites (ws : List LocalWrite) : List Micro → List Micro
  | [] => []
  | m :: ms => ⟨ws ++ m.writes, m.prim⟩ :: ms

/-- The data lines with their bits, in ascending k: DBk carries bit k (rule R78). -/
def dataLines (n : Nibble) : List (Line × Bool) :=
  [(.db0, n.getLsbD 0), (.db1, n.getLsbD 1), (.db2, n.getLsbD 2), (.db3, n.getLsbD 3)]

/-- PUT_NIBBLE: first every line whose bit is 0 is driven Low, then every line whose bit is 1 is driven High, ascending in each
group (rule R165). -/
def putNibblePlan (n : Nibble) : List Micro :=
  ((dataLines n).filter (fun p => !p.2)).map (fun p => pinMicro p.1 .low) ++
    ((dataLines n).filter (fun p => p.2)).map (fun p => pinMicro p.1 .high)

/-- STROBE: settle, E High, pulse, E Low, settle (rule R167). -/
def strobePlan : List Micro :=
  [plain (.delay .settle), pinMicro .e .high, plain (.delay .pulse), pinMicro .e .low, plain (.delay .settle)]

/-- SEND_BYTE: RS, high nibble, strobe, low nibble, strobe (rules R163, R164). -/
def sendBytePlan (value : Byte) (isData : Bool) : List Micro :=
  withWrites [.val value, .isData isData] [pinMicro .rs (levelOf isData)] ++
    withWrites [.nib (highNibble value)] (putNibblePlan (highNibble value)) ++ strobePlan ++
    withWrites [.nib (lowNibble value)] (putNibblePlan (lowNibble value)) ++ strobePlan

/-- A sequence of command bytes. -/
def commandsPlan (bytes : List Byte) : List Micro := bytes.flatMap (fun b => sendBytePlan b false)

/-- A sequence of data bytes. -/
def dataPlan (bytes : List Byte) : List Micro := bytes.flatMap (fun b => sendBytePlan b true)

/-- The one exchange of READ_CHANNEL (rules R112, R113). -/
def transferPlan (channel : Int) : List Micro := [plain (.transfer (commandFrame channel))]

/-- LCD_WRITE_LINE: the line address, then the sixteen cells (rule R175). -/
def writeLinePlan (text : List Byte) (line : LineSel) : List Micro :=
  commandsPlan [lineAddress line] ++ dataPlan (lineBuffer text)

/-- The event list of an operation (rules R14, R91, R113, R163, R165, R167, R172, R173, R175). CONVERT, the reserved codes, a received
response and the answers to the host make no primitive call. -/
def plan : Instr → List Micro
  | .readChannel channel => transferPlan channel
  | .convert _ _ _ => []
  | .lcdInit => commandsPlan Config.initSequence
  | .lcdClear => commandsPlan [Config.clearByte]
  | .lcdWriteLine text line => writeLinePlan text line
  | .reservedOpc5 => []
  | .reservedOpc6 => []
  | .reservedOpc7 => []
  | .sendByte value isData => sendBytePlan value isData
  | .putNibble n => putNibblePlan n
  | .strobe => strobePlan
  | .adcCmd channel => transferPlan channel.toNat
  | .adcRsp _ => []
  | .lcdCmdInit0 => sendBytePlan 0x33 false
  | .lcdCmdInit1 => sendBytePlan 0x32 false
  | .lcdCmdInit2 => sendBytePlan 0x06 false
  | .lcdCmdInit3 => sendBytePlan 0x0C false
  | .lcdCmdInit4 => sendBytePlan 0x28 false
  | .lcdCmdClear => sendBytePlan 0x01 false
  | .lcdCmdSetLine1 => sendBytePlan 0x80 false
  | .lcdCmdSetLine2 => sendBytePlan 0xC0 false
  | .lcdData code => sendBytePlan code true
  | .statusOk _ => []
  | .statusInvalidArgument => []
  | .statusBusFailure => []
  | .statusPinFailure => []
  | .statusNotReady => []
  | .reservedStatus5 => []
  | .reservedStatus6 => []
  | .reservedStatus7 => []

/-- How an operation ends after the last event of its list. -/
inductive Ending where
  /-- READ_CHANNEL: decode RXF and answer the sample (rule R113). -/
  | answersSample
  /-- LCD_INIT: LCDST <- Ready, answer OK (rule R172). -/
  | becomesReady
  /-- LCD_CLEAR, LCD_WRITE_LINE: answer OK (rules R173, R175). -/
  | answersDone
  /-- An internal operation or a wire format run alone: no answer (entry 1). -/
  | silent
deriving DecidableEq, Repr

/-- The ending of each operation. -/
def ending : Instr → Ending
  | .readChannel _ => .answersSample
  | .convert _ _ _ => .silent
  | .lcdInit => .becomesReady
  | .lcdClear => .answersDone
  | .lcdWriteLine _ _ => .answersDone
  | .reservedOpc5 => .silent
  | .reservedOpc6 => .silent
  | .reservedOpc7 => .silent
  | .sendByte _ _ => .silent
  | .putNibble _ => .silent
  | .strobe => .silent
  | .adcCmd _ => .silent
  | .adcRsp _ => .silent
  | .lcdCmdInit0 => .silent
  | .lcdCmdInit1 => .silent
  | .lcdCmdInit2 => .silent
  | .lcdCmdInit3 => .silent
  | .lcdCmdInit4 => .silent
  | .lcdCmdClear => .silent
  | .lcdCmdSetLine1 => .silent
  | .lcdCmdSetLine2 => .silent
  | .lcdData _ => .silent
  | .statusOk _ => .silent
  | .statusInvalidArgument => .silent
  | .statusBusFailure => .silent
  | .statusPinFailure => .silent
  | .statusNotReady => .silent
  | .reservedStatus5 => .silent
  | .reservedStatus6 => .silent
  | .reservedStatus7 => .silent

/-- The working values an operation writes before its first event: TXF (rule R112), LBUF (rule R174). -/
def firstLocals : Instr → Locals
  | .readChannel channel => { txf := some (commandFrame channel) }
  | .convert _ _ _ => {}
  | .lcdInit => {}
  | .lcdClear => {}
  | .lcdWriteLine text _ => { lbuf := some (lineBuffer text) }
  | .reservedOpc5 => {}
  | .reservedOpc6 => {}
  | .reservedOpc7 => {}
  | .sendByte _ _ => {}
  | .putNibble _ => {}
  | .strobe => {}
  | .adcCmd channel => { txf := some (commandFrame channel.toNat) }
  | .adcRsp _ => {}
  | .lcdCmdInit0 => {}
  | .lcdCmdInit1 => {}
  | .lcdCmdInit2 => {}
  | .lcdCmdInit3 => {}
  | .lcdCmdInit4 => {}
  | .lcdCmdClear => {}
  | .lcdCmdSetLine1 => {}
  | .lcdCmdSetLine2 => {}
  | .lcdData _ => {}
  | .statusOk _ => {}
  | .statusInvalidArgument => {}
  | .statusBusFailure => {}
  | .statusPinFailure => {}
  | .statusNotReady => {}
  | .reservedStatus5 => {}
  | .reservedStatus6 => {}
  | .reservedStatus7 => {}

end Sys2Proof.Machine
end

