-- ==== Sys2Proof/Machine/Sequencer.lean ====
section
/-! DEFINITION. The sequencer (rule R14): one event at a time, or a whole operation as one step ("A model may equally run each operation
as one big step that produces the whole event list, provided a failure truncates the list at the failing event"). -/

namespace Sys2Proof.Machine

/-- The start of an operation: SEQ at its first event. -/
def beginOperation (op : Instr) (s : State) : State :=
  { s with seq := .busy op 0, locals := firstLocals op }

/-- One write of a working value (rule R163). -/
def writeLocal (w : LocalWrite) (l : Locals) : Locals :=
  match w with
  | .val v => { l with val := some v }
  | .isData b => { l with isData := some b }
  | .nib n => { l with nib := some n }

/-- The writes before an event, in order. -/
def writeLocals (ws : List LocalWrite) (s : State) : State :=
  { s with locals := ws.foldl (fun l w => writeLocal w l) s.locals }

/-- One primitive call. -/
def callPrim (p : Prim) (s : State) : Progress :=
  match p with
  | .transfer tx => busTransfer tx s
  | .pin l v => pinSet l v s
  | .delay k => delayFor k s

/-- One event of an operation, with the writes before it. -/
def perform (m : Micro) (s : State) : Progress := callPrim m.prim (writeLocals m.writes s)

/-- The answer of READ_CHANNEL: SAMPLE from RXF (rules R113, R114). The exchange before it has written RXF; without it there is
nothing to decode (rule R15). -/
def answerSample (s : State) : State :=
  match s.locals.rxf with
  | none => finish s
  | some rx =>
    answer (.ok (.sample (assembleSample rx))) { s with locals := { s.locals with sample := some (assembleSample rx) } }

/-- What follows the last event (rules R113, R172, R173, R175). -/
def conclude (op : Instr) (s : State) : State :=
  match ending op with
  | .answersSample => answerSample s
  | .becomesReady => answer (.ok .none) { s with lcdst := .ready }
  | .answersDone => answer (.ok .none) s
  | .silent => finish s

/-- The events still to come, `k` of them done: SEQ advances by one for each, a failure ends the operation at once, and an exchange
that never returns leaves it where it is (rules R14, R119, R207). -/
def runMicros (op : Instr) : Nat → List Micro → State → State
  | _, [], s => conclude op s
  | k, m :: ms, s =>
    match perform m s with
    | .done s' => runMicros op (k + 1) ms { s' with seq := .busy op (k + 1) }
    | .ended s' => s'
    | .hung s' => s'

/-- A whole operation. -/
def runOperation (op : Instr) (s : State) : State := runMicros op 0 (plan op) (beginOperation op s)

/-- One event of the operation in progress (rule R14): "when k+1 equals the length of the list the operation answers the host and
SEQ <- Idle". -/
def resume (op : Instr) (k : Nat) (s : State) : Host.Outcome State Fault Refusal :=
  match (plan op)[k]? with
  | none => .fault .sequencerOutOfRange
  | some m =>
    match perform m s with
    | .done s' =>
      if k + 1 = (plan op).length then .next (conclude op { s' with seq := .busy op (k + 1) })
      else .next { s' with seq := .busy op (k + 1) }
    | .ended s' => .next s'
    | .hung s' => .next s'

/-- Operations start only when SEQ is Idle; a request at any other time has no step (rule R56). -/
def whenIdle (s t : State) : Host.Outcome State Fault Refusal :=
  match s.seq with
  | .idle => .next t
  | .busy _ _ => .refused .overlappingRequest

end Sys2Proof.Machine
end

