-- ==== Sys2Proof/Machine/AdcReader.lean ====
section
/-! DEFINITION. AdcReader: READ_CHANNEL (40_adc_reader.md) and the two frames of its exchange run alone (entry 1). -/

namespace Sys2Proof.Machine

/-- READ_CHANNEL (rule R113): the argument check (R111), the frame (R112), one exchange (R46), the decode (R114), the answer. -/
def execReadChannel (channel : Int) (s : State) : Host.Outcome State Fault Refusal :=
  whenIdle s
    (if channel < 0 ∨ 7 < channel then raise .invalidArgument s else runOperation (.readChannel channel) s)

/-- ADC_CMD (rule R71): the command frame goes out in its one exchange; the response stands in the trace, and nothing is answered. -/
def execAdcCmd (channel : BitVec 3) (s : State) : Host.Outcome State Fault Refusal :=
  whenIdle s (runOperation (.adcCmd channel) s)

/-- ADC_RSP (rules R73, R74, R114): RXF <- the response, SAMPLE <- its ten bits, and SAMPLE is returned. -/
def execAdcRsp (response : Frame) (s : State) : Host.Outcome State Fault Refusal :=
  whenIdle s (answerSample { s with locals := { s.locals with rxf := some response } })

end Sys2Proof.Machine
end

