-- ==== Sys2Proof/Machine/DisplayDriver.lean ====
section
/-! DEFINITION. DisplayDriver (42_display_driver.md): the host operations, the internal operations, and the protocol bytes of the
command map run alone (entry 1). -/

namespace Sys2Proof.Machine

/-- The guard of LCD_CLEAR and LCD_WRITE_LINE: Ready, or NOT_READY before any event (rule R171). -/
def guarded (op : Instr) (s : State) : State :=
  match s.lcdst with
  | .ready => runOperation op s
  | .uninitialized => raise .notReady s

/-- LCD_INIT, accepted in both states (rules R172, R183). -/
def execLcdInit (s : State) : Host.Outcome State Fault Refusal := whenIdle s (runOperation .lcdInit s)

/-- LCD_CLEAR (rules R171, R173). -/
def execLcdClear (s : State) : Host.Outcome State Fault Refusal := whenIdle s (guarded .lcdClear s)

/-- LCD_WRITE_LINE (rules R171, R174, R175). -/
def execLcdWriteLine (text : List Byte) (line : LineSel) (s : State) : Host.Outcome State Fault Refusal :=
  whenIdle s (guarded (.lcdWriteLine text line) s)

/-- SEND_BYTE (rule R163). -/
def execSendByte (value : Byte) (isData : Bool) (s : State) : Host.Outcome State Fault Refusal :=
  whenIdle s (runOperation (.sendByte value isData) s)

/-- PUT_NIBBLE (rule R165). -/
def execPutNibble (n : Nibble) (s : State) : Host.Outcome State Fault Refusal :=
  whenIdle s (runOperation (.putNibble n) s)

/-- STROBE (rule R167). -/
def execStrobe (s : State) : Host.Outcome State Fault Refusal := whenIdle s (runOperation .strobe s)

/-- The command byte 0x33 (rule R76). -/
def execLcdCmdInit0 (s : State) : Host.Outcome State Fault Refusal := whenIdle s (runOperation .lcdCmdInit0 s)

/-- The command byte 0x32 (rule R76). -/
def execLcdCmdInit1 (s : State) : Host.Outcome State Fault Refusal := whenIdle s (runOperation .lcdCmdInit1 s)

/-- The command byte 0x06 (rule R76). -/
def execLcdCmdInit2 (s : State) : Host.Outcome State Fault Refusal := whenIdle s (runOperation .lcdCmdInit2 s)

/-- The command byte 0x0C (rule R76). -/
def execLcdCmdInit3 (s : State) : Host.Outcome State Fault Refusal := whenIdle s (runOperation .lcdCmdInit3 s)

/-- The command byte 0x28 (rule R76). -/
def execLcdCmdInit4 (s : State) : Host.Outcome State Fault Refusal := whenIdle s (runOperation .lcdCmdInit4 s)

/-- The command byte 0x01 (rule R76). It is the byte, not the guarded operation LCD_CLEAR (90_conflicts.md C3). -/
def execLcdCmdClear (s : State) : Host.Outcome State Fault Refusal := whenIdle s (runOperation .lcdCmdClear s)

/-- The command byte 0x80 (rule R76). -/
def execLcdCmdSetLine1 (s : State) : Host.Outcome State Fault Refusal := whenIdle s (runOperation .lcdCmdSetLine1 s)

/-- The command byte 0xC0 (rule R76). -/
def execLcdCmdSetLine2 (s : State) : Host.Outcome State Fault Refusal := whenIdle s (runOperation .lcdCmdSetLine2 s)

/-- A data byte, sent unchanged (rules R76, R81). -/
def execLcdData (code : Byte) (s : State) : Host.Outcome State Fault Refusal :=
  whenIdle s (runOperation (.lcdData code) s)

end Sys2Proof.Machine
end

