-- ==== Sys2Proof/Machine/HostPort.lean ====
section
/-! DEFINITION. The host's port: the reserved request codes (rule R85) and the responses (rules R84, R201) run alone (entry 1).
A response given alone is the answer and nothing else: the state that goes with a failure is written by the operation that failed (rules R11,
R177), not by its status. -/

namespace Sys2Proof.Machine

/-- The reserved request code 0b101: answered INVALID_ARGUMENT, no event (rule R85). -/
def execReservedOpc5 (s : State) : Host.Outcome State Fault Refusal := whenIdle s (raise .invalidArgument s)

/-- The reserved request code 0b110: answered INVALID_ARGUMENT, no event (rule R85). -/
def execReservedOpc6 (s : State) : Host.Outcome State Fault Refusal := whenIdle s (raise .invalidArgument s)

/-- The reserved request code 0b111: answered INVALID_ARGUMENT, no event (rule R85). -/
def execReservedOpc7 (s : State) : Host.Outcome State Fault Refusal := whenIdle s (raise .invalidArgument s)

/-- The response OK with its value (rules R84, R201). -/
def execStatusOk (value : OkValue) (s : State) : Host.Outcome State Fault Refusal := whenIdle s (answer (.ok value) s)

/-- The response INVALID_ARGUMENT (rules R84, R201). -/
def execStatusInvalidArgument (s : State) : Host.Outcome State Fault Refusal :=
  whenIdle s (answer (.failed .invalidArgument) s)

/-- The response BUS_FAILURE (rules R84, R201). -/
def execStatusBusFailure (s : State) : Host.Outcome State Fault Refusal :=
  whenIdle s (answer (.failed .busFailure) s)

/-- The response PIN_FAILURE (rules R84, R201). It writes no LCDST: only LCD_INIT and the failure path of a display operation do (rules R11,
R161, entry 17). -/
def execStatusPinFailure (s : State) : Host.Outcome State Fault Refusal :=
  whenIdle s (answer (.failed .pinFailure) s)

/-- The response NOT_READY (rules R84, R201). -/
def execStatusNotReady (s : State) : Host.Outcome State Fault Refusal :=
  whenIdle s (answer (.failed .notReady) s)

/-- Status 5, "reserved, never produced" (rule R84). -/
def execReservedStatus5 (_ : State) : Host.Outcome State Fault Refusal := .refused (.reservedStatus 5)

/-- Status 6, "reserved, never produced" (rule R84). -/
def execReservedStatus6 (_ : State) : Host.Outcome State Fault Refusal := .refused (.reservedStatus 6)

/-- Status 7, "reserved, never produced" (rule R84). -/
def execReservedStatus7 (_ : State) : Host.Outcome State Fault Refusal := .refused (.reservedStatus 7)

end Sys2Proof.Machine
end

