-- ==== Sys2Proof/Machine/TemperatureConverter.lean ====
section
/-! DEFINITION. TemperatureConverter: CONVERT (41_temperature_converter.md). -/

namespace Sys2Proof.Machine

/-- TQ <- the code, and TQ is returned (rules R136, R139). -/
def answerTemperature (tq : Int) (s : State) : State :=
  answer (.ok (.temperature tq)) { s with locals := { s.locals with tq := some tq } }

/-- CONVERT: the model check (rule R132), then the exact arithmetic with one rounding (rules R134 to R139). -/
def execConvert (sample : Sample) (model : SensorModel) (places : Nat) (s : State) :
    Host.Outcome State Fault Refusal :=
  whenIdle s
    (if model.fullScaleCode ≤ 0 then raise .invalidArgument s
     else answerTemperature (temperatureCode s.cfg.roundMode sample model places) s)

end Sys2Proof.Machine
end

