-- ==== Sys2Proof/Machine/Dispatch.lean ====
section
/-! DEFINITION. One arm per row of spec/opcode_table.json, each one call of its meaning. -/

namespace Sys2Proof.Machine

def exec (i : Instr) (s : State) : Host.Outcome State Fault Refusal :=
  match i with
  | .readChannel channel => Sys2Proof.Machine.execReadChannel channel s
  | .convert sample model places => Sys2Proof.Machine.execConvert sample model places s
  | .lcdInit => Sys2Proof.Machine.execLcdInit s
  | .lcdClear => Sys2Proof.Machine.execLcdClear s
  | .lcdWriteLine text line => Sys2Proof.Machine.execLcdWriteLine text line s
  | .reservedOpc5 => Sys2Proof.Machine.execReservedOpc5 s
  | .reservedOpc6 => Sys2Proof.Machine.execReservedOpc6 s
  | .reservedOpc7 => Sys2Proof.Machine.execReservedOpc7 s
  | .sendByte value isData => Sys2Proof.Machine.execSendByte value isData s
  | .putNibble n => Sys2Proof.Machine.execPutNibble n s
  | .strobe => Sys2Proof.Machine.execStrobe s
  | .adcCmd channel => Sys2Proof.Machine.execAdcCmd channel s
  | .adcRsp response => Sys2Proof.Machine.execAdcRsp response s
  | .lcdCmdInit0 => Sys2Proof.Machine.execLcdCmdInit0 s
  | .lcdCmdInit1 => Sys2Proof.Machine.execLcdCmdInit1 s
  | .lcdCmdInit2 => Sys2Proof.Machine.execLcdCmdInit2 s
  | .lcdCmdInit3 => Sys2Proof.Machine.execLcdCmdInit3 s
  | .lcdCmdInit4 => Sys2Proof.Machine.execLcdCmdInit4 s
  | .lcdCmdClear => Sys2Proof.Machine.execLcdCmdClear s
  | .lcdCmdSetLine1 => Sys2Proof.Machine.execLcdCmdSetLine1 s
  | .lcdCmdSetLine2 => Sys2Proof.Machine.execLcdCmdSetLine2 s
  | .lcdData code => Sys2Proof.Machine.execLcdData code s
  | .statusOk value => Sys2Proof.Machine.execStatusOk value s
  | .statusInvalidArgument => Sys2Proof.Machine.execStatusInvalidArgument s
  | .statusBusFailure => Sys2Proof.Machine.execStatusBusFailure s
  | .statusPinFailure => Sys2Proof.Machine.execStatusPinFailure s
  | .statusNotReady => Sys2Proof.Machine.execStatusNotReady s
  | .reservedStatus5 => Sys2Proof.Machine.execReservedStatus5 s
  | .reservedStatus6 => Sys2Proof.Machine.execReservedStatus6 s
  | .reservedStatus7 => Sys2Proof.Machine.execReservedStatus7 s

end Sys2Proof.Machine
end

