-- ==== Sys2Proof/Machine/Fetch.lean ====
section
/-! DEFINITION. Taking the next packet. The core fetches no instruction (rule R58): an operation comes from the host, one at a time
(rule R56), and waits in the inbox until SEQ is Idle (entry 2). -/

namespace Sys2Proof.Machine

/-- The next packet decoded, and the state without it; nothing where none waits. -/
def takePacket (s : State) : Option (Except DecodeError Instr × State) :=
  match s.inbox with
  | [] => none
  | p :: rest => some (decode p, { s with inbox := rest })

/-- Puts a packet where the next step takes it: SEQ Idle, the packet first. -/
def placePacket (p : Packet) (s : State) : State :=
  { s with seq := .idle, inbox := p :: s.inbox }

/-- Puts a word of the opcode table where the next step takes it; a word wider than the table's is an empty request. -/
def placeTableWord (nbits w : Nat) (s : State) : State :=
  match tablePacket nbits w with
  | none => placePacket ⟨.hostReq, []⟩ s
  | some p => placePacket p s

end Sys2Proof.Machine
end

