-- ==== Sys2Proof/Machine/Step.lean ====
section
/-! DEFINITION. One step of the machine: the next event of the operation in progress, or, when SEQ is Idle, the next packet of the
inbox decoded and run. With an empty inbox the core waits (rules R20, R218). -/

namespace Sys2Proof.Machine

/-- One step (rules R14, R19, R20). A packet that is no instruction is refused by name (rule R86). -/
def step (s : State) : Host.Outcome State Fault Refusal :=
  match s.seq with
  | .busy op k => resume op k s
  | .idle =>
    match takePacket s with
    | none => .next s
    | some (.ok i, s') => exec i s'
    | some (.error e, _) => .refused (.undecodable e)

/-- The state in which the very next step takes the word of the opcode table. -/
def State.withFetchWord (s : State) (nbits w : Nat) : State := placeTableWord nbits w s

end Sys2Proof.Machine
end

