-- ==== Sys2Proof/Machine/Flags.lean ====
section
/-! DEFINITION. The outcome codes. The core has no flag and no condition code (rule R16); the outcome of an operation is the status
of its response, with the numbers of rules R84 and R201. -/

namespace Sys2Proof.Machine

/-- The number of a failure status (rule R201). -/
def failureCode : Failure → BitVec 3
  | .invalidArgument => 1
  | .busFailure => 2
  | .pinFailure => 3
  | .notReady => 4

/-- The status of a response (rule R84). -/
def statusCode : Response → BitVec 3
  | .ok _ => 0
  | .failed f => failureCode f

/-- The value of a response, "for status OK only" (rule R84). -/
def responseValue : Response → Option OkValue
  | .ok v => some v
  | .failed _ => none

/-- LCDST as its bit (rule R11: Uninitialized 0, Ready 1). -/
def lcdstBit : LcdState → BitVec 1
  | .uninitialized => 0
  | .ready => 1

/-- Busy is SEQ != Idle (rule R19). -/
def isBusy : Seq → Bool
  | .idle => false
  | .busy _ _ => true

end Sys2Proof.Machine
end

