-- ==== Sys2Proof/Safety.lean ====
section
/-! DEFINITION. What the statements about the machine speak of: a legal configuration, the invariant of every run, the events the spec's
own tables give each display operation, and what those events say to someone who watches the six lines. -/

namespace Sys2Proof.Safety

open Sys2Proof.Machine

/-! Configuration and requests. -/

/-- A legal CFG: six pins pairwise distinct, each delay at least 500 microseconds (rule R13). -/
def legalCfg (c : Cfg) : Prop :=
  [c.pinRS, c.pinE, c.pinDB0, c.pinDB1, c.pinDB2, c.pinDB3].Nodup ∧ 500 ≤ c.tSettle ∧ 500 ≤ c.tPulse

/-- The operations the host can request: the five of rule R83 and the reserved codes. The internal operations are not among them
(rules R83, R162). -/
def hostOperation (i : Instr) : Bool :=
  match portOf i with
  | .hostReq => true
  | .hostRsp => false
  | .sendByte => false
  | .lcdByte => false
  | .nibble => false
  | .strobe => false
  | .adcCmd => false
  | .adcRsp => false

/-- How many bytes a packet of a format of fixed length has (rule R70): 24 bits, 9 bits, and 5 or 4 bits. A request and a response go on after
their 3-bit codes (rules R83, R84). -/
def fixedLength : Port → Option Nat
  | .hostReq => none
  | .hostRsp => none
  | .sendByte => some 2
  | .lcdByte => some 2
  | .nibble => some 1
  | .strobe => some 1
  | .adcCmd => some 3
  | .adcRsp => some 3

/-! The invariant. -/

/-- The level a list of steps drives last on a line. -/
def lastDriven (l : Line) : List Micro → Option Level
  | [] => none
  | m :: ms =>
    match lastDriven l ms with
    | some v => some v
    | none =>
      match m.prim with
      | .pin l' v => if l' = l then some v else none
      | .transfer _ => none
      | .delay _ => none

/-- The level the operation in progress has driven last on a line, in the events SEQ has passed. -/
def drivenSoFar (q : Seq) (l : Line) : Option Level :=
  match q with
  | .idle => none
  | .busy op k => lastDriven l ((plan op).take k)

/-- The invariant of every run, from any state that has it.
- The display's cells keep their canonical form.
- Between operations the working values hold nothing (rule R15).
- SEQ is inside its operation's event list (rule R14).
- A line shows what the operation in progress last drove on it (rule R12).
- In Ready every line's level is known, and E is Low unless the operation in progress has driven it (rule R178). -/
structure CoreInv (s : State) : Prop where
  cells : Memory.wf s.display.cells = true
  locals : s.seq = .idle → s.locals = {}
  position : ∀ op k, s.seq = .busy op k → k < (plan op).length
  written : ∀ l v, drivenSoFar s.seq l = some v → s.lvl.get l = driven v
  known : s.lcdst = .ready → ∀ l, s.lvl.get l ≠ .unknown
  enable : s.lcdst = .ready → drivenSoFar s.seq .e = none → s.lvl.e = .low

/-! The events of the display operations, as the spec's tables give them. -/

/-- The events of PUT_NIBBLE, the sixteen rows of rule R165's table. -/
def nibbleEvents (n : Nibble) : List Event :=
  match n.toNat with
  | 0x0 => [.set .db0 .low, .set .db1 .low, .set .db2 .low, .set .db3 .low]
  | 0x1 => [.set .db1 .low, .set .db2 .low, .set .db3 .low, .set .db0 .high]
  | 0x2 => [.set .db0 .low, .set .db2 .low, .set .db3 .low, .set .db1 .high]
  | 0x3 => [.set .db2 .low, .set .db3 .low, .set .db0 .high, .set .db1 .high]
  | 0x4 => [.set .db0 .low, .set .db1 .low, .set .db3 .low, .set .db2 .high]
  | 0x5 => [.set .db1 .low, .set .db3 .low, .set .db0 .high, .set .db2 .high]
  | 0x6 => [.set .db0 .low, .set .db3 .low, .set .db1 .high, .set .db2 .high]
  | 0x7 => [.set .db3 .low, .set .db0 .high, .set .db1 .high, .set .db2 .high]
  | 0x8 => [.set .db0 .low, .set .db1 .low, .set .db2 .low, .set .db3 .high]
  | 0x9 => [.set .db1 .low, .set .db2 .low, .set .db0 .high, .set .db3 .high]
  | 0xA => [.set .db0 .low, .set .db2 .low, .set .db1 .high, .set .db3 .high]
  | 0xB => [.set .db2 .low, .set .db0 .high, .set .db1 .high, .set .db3 .high]
  | 0xC => [.set .db0 .low, .set .db1 .low, .set .db2 .high, .set .db3 .high]
  | 0xD => [.set .db1 .low, .set .db0 .high, .set .db2 .high, .set .db3 .high]
  | 0xE => [.set .db0 .low, .set .db1 .high, .set .db2 .high, .set .db3 .high]
  | _ => [.set .db0 .high, .set .db1 .high, .set .db2 .high, .set .db3 .high]

/-- The five events of STROBE (rule R167). -/
def strobeEvents : List Event :=
  [.dly .settle, .set .e .high, .dly .pulse, .set .e .low, .dly .settle]

/-- RS High for data, Low for a command (rule R79). -/
def rsLevel (isData : Bool) : Level := if isData = true then .high else .low

/-- The nineteen events of SEND_BYTE, rule R163's table. -/
def sendByteEvents (v : Byte) (isData : Bool) : List Event :=
  .set .rs (rsLevel isData) :: nibbleEvents (BitVec.ofNat 4 (v.toNat / 16)) ++ strobeEvents ++
    nibbleEvents (BitVec.ofNat 4 (v.toNat % 16)) ++ strobeEvents

/-- The events of a sequence of bytes, each with its selector (rule R91). -/
def bytesEvents (bytes : List (Byte × Bool)) : List Event :=
  bytes.flatMap (fun p => sendByteEvents p.1 p.2)

/-- The bytes LCD_INIT sends (rule R172). -/
def initBytes : List (Byte × Bool) :=
  [(0x33, false), (0x32, false), (0x06, false), (0x0C, false), (0x28, false), (0x01, false)]

/-- The sixteen cells of a line: the text, padded with 0x20 or cut (rule R80). -/
def paddedText (text : List Byte) : List Byte :=
  (text ++ List.replicate 16 0x20).take 16

/-- The command byte that selects a row (rule R82). -/
def rowCommand : LineSel → Byte
  | .line1 => 0x80
  | .line2 => 0xC0

/-- The bytes LCD_WRITE_LINE sends: the line address, then the sixteen cells as data (rule R175). -/
def lineBytes (text : List Byte) (line : LineSel) : List (Byte × Bool) :=
  (rowCommand line, false) :: (paddedText text).map (fun b => (b, true))

/-- The command bytes of the opcode table with their constructors (rule R76). -/
def commandRows : List (Instr × Byte) :=
  [(.lcdCmdInit0, 0x33), (.lcdCmdInit1, 0x32), (.lcdCmdInit2, 0x06), (.lcdCmdInit3, 0x0C), (.lcdCmdInit4, 0x28),
    (.lcdCmdClear, 0x01), (.lcdCmdSetLine1, 0x80), (.lcdCmdSetLine2, 0xC0)]

/-- The protocol bytes an operation sends, where it sends whole bytes. -/
def bytesOf : Instr → Option (List (Byte × Bool))
  | .lcdInit => some initBytes
  | .lcdClear => some [(0x01, false)]
  | .lcdWriteLine text line => some (lineBytes text line)
  | .sendByte v isData => some [(v, isData)]
  | .lcdCmdInit0 => some [(0x33, false)]
  | .lcdCmdInit1 => some [(0x32, false)]
  | .lcdCmdInit2 => some [(0x06, false)]
  | .lcdCmdInit3 => some [(0x0C, false)]
  | .lcdCmdInit4 => some [(0x28, false)]
  | .lcdCmdClear => some [(0x01, false)]
  | .lcdCmdSetLine1 => some [(0x80, false)]
  | .lcdCmdSetLine2 => some [(0xC0, false)]
  | .lcdData code => some [(code, true)]
  | .readChannel _ => none
  | .convert _ _ _ => none
  | .reservedOpc5 => none
  | .reservedOpc6 => none
  | .reservedOpc7 => none
  | .putNibble _ => none
  | .strobe => none
  | .adcCmd _ => none
  | .adcRsp _ => none
  | .statusOk _ => none
  | .statusInvalidArgument => none
  | .statusBusFailure => none
  | .statusPinFailure => none
  | .statusNotReady => none
  | .reservedStatus5 => none
  | .reservedStatus6 => none
  | .reservedStatus7 => none

/-- The events of a display operation that completes. -/
def displayEvents : Instr → Option (List Event)
  | .putNibble n => some (nibbleEvents n)
  | .strobe => some strobeEvents
  | i => (bytesOf i).map bytesEvents

/-- An operation that passes its guard: LCD_CLEAR and LCD_WRITE_LINE are accepted in Ready only (rule R171). -/
def accepted (i : Instr) (s : State) : Prop :=
  match i with
  | .lcdClear => s.lcdst = .ready
  | .lcdWriteLine _ _ => s.lcdst = .ready
  | _ => True

/-! What the events leave on the lines, in the pin answers, at the display. -/

/-- The lines after one event (rule R12). -/
def linesStep (lv : Levels) (ev : Event) : Levels :=
  match ev with
  | .set l v => lv.put l (driven v)
  | .setFail l _ => lv.put l .unknown
  | .xfer _ _ => lv
  | .xferFail _ => lv
  | .dly _ => lv

/-- The lines after a list of events. -/
def linesAfter (lv : Levels) (evs : List Event) : Levels := evs.foldl linesStep lv

/-- The display after a list of events. -/
def watch : Levels → List Event → Display → Display
  | _, [], d => d
  | lv, ev :: evs, d => watch (linesStep lv ev) evs (d.observe (linesStep lv ev) ev)

/-- How many pin writes a list of events holds. -/
def pinWrites (evs : List Event) : Nat :=
  evs.countP (fun ev => match ev with | .set _ _ => true | _ => false)

/-- How many delays a list of events holds. -/
def delays (evs : List Event) : Nat :=
  evs.countP (fun ev => match ev with | .dly _ => true | _ => false)

/-- How many strobes a list of events holds: falling edges of E (rule R51). -/
def strobes (evs : List Event) : Nat :=
  evs.countP (fun ev => match ev with | .set .e .low => true | _ => false)

/-- A lower bound on the time a list of events takes, in microseconds, counting delays only (rules R253, R254). -/
def minDuration (c : Cfg) : List Event → Nat
  | [] => 0
  | .dly .settle :: evs => c.tSettle + minDuration c evs
  | .dly .pulse :: evs => c.tPulse + minDuration c evs
  | _ :: evs => minDuration c evs

/-- Every write of E and every delay stands in a whole strobe of rule R167's shape, and nothing else stands inside one (rule R168). -/
def strobeShaped : List Event → Bool
  | [] => true
  | .dly .settle :: .set .e .high :: .dly .pulse :: .set .e .low :: .dly .settle :: evs => strobeShaped evs
  | .set .rs _ :: evs => strobeShaped evs
  | .set .db0 _ :: evs => strobeShaped evs
  | .set .db1 _ :: evs => strobeShaped evs
  | .set .db2 _ :: evs => strobeShaped evs
  | .set .db3 _ :: evs => strobeShaped evs
  | _ => false

/-! Someone who watches the six lines. -/

/-- RS and the nibble on the data lines, where all five levels are known (rules R77, R78, R79). -/
def onLines (lv : Levels) : Option (Bool × Nibble) :=
  match lineBit lv.rs, nibbleOnLines lv with
  | some rs, some n => some (rs, n)
  | _, _ => none

/-- What stands on the lines at each lowering of E. -/
def nibblesOnWire : Levels → List Event → List (Option (Bool × Nibble))
  | _, [] => []
  | lv, .set .e .low :: evs => onLines lv :: nibblesOnWire (linesStep lv (.set .e .low)) evs
  | lv, ev :: evs => nibblesOnWire (linesStep lv ev) evs

/-- Nibbles two by two, high nibble first; a half byte at the end is left out (rule R51). -/
def pairUp : List (Option (Bool × Nibble)) → List (Option (Bool × Byte))
  | some (r1, hi) :: some (r2, lo) :: rest =>
    (if r1 = r2 then some (r1, BitVec.ofNat 8 (16 * hi.toNat + lo.toNat)) else none) :: pairUp rest
  | _ :: _ :: rest => none :: pairUp rest
  | [_] => []
  | [] => []

/-- The protocol bytes seen on the lines, each with its selector; `none` for one that cannot be told. -/
def bytesOnWire (lv : Levels) (evs : List Event) : List (Option (Bool × Byte)) :=
  pairUp (nibblesOnWire lv evs)

/-- The events a step or an instruction added to the trace. -/
def newEvents (s t : State) : List Event := t.trace.drop s.trace.length

/-- The command bytes of rule R76. -/
def commandBytes : List Byte := [0x33, 0x32, 0x06, 0x0C, 0x28, 0x01, 0x80, 0xC0]

/-- A display in step with the core: it expects a high nibble and no strobe is under way (rule R51). -/
def inStep (d : Display) : Prop :=
  d.half = .first ∧ (d.strobe = .unsettled ∨ d.strobe = .settled)

end Sys2Proof.Safety
end

