-- ==== Sys2Proof/Certificates/Slice0/Obligations.lean ====
section
/-! DEFINITION. The statements for the provers. Each docstring names the rules of spec/ it rests on; where a clause is the model's own
choice it names the entry of notes/assumptions. -/

open Sys2Proof Sys2Proof.Machine Sys2Proof.Safety

/-! ## Encoding -/

/-- Decoding the packet of any instruction that has one gives the instruction back, at every operand value. The layout of a request's
operands is the model's (entries 3 and 4); the formats are 30_encoding.md R70 to R84. -/
def Obligations.DecodeOfEncodeIsTheInstruction : Prop :=
  ∀ i : Instr, i.wellFormed = true → decode (encode i) = .ok i

/-- A few words of the opcode table, read as 30_encoding.md R71, R76 and R83 write them. -/
def Obligations.TableWordsDecode : Prop :=
  decodeTableWord 8 0b010 = some .lcdInit ∧ decodeTableWord 8 0b100 = some (.lcdWriteLine [] .line1) ∧
    decodeTableWord 8 0b111 = some .reservedOpc7 ∧ decodeTableWord 16 0x033 = some .lcdCmdInit0 ∧
    decodeTableWord 16 0x0C0 = some .lcdCmdSetLine2 ∧ decodeTableWord 16 0x169 = some (.lcdData 0x69) ∧
    decodeTableWord 24 0x01F000 = some (.adcCmd 7)

/-- Three bytes are a command frame exactly when they are the 24-bit pattern `00000001 1ccc0000 00000000` (R71). -/
def Obligations.CommandFramesAreThePattern : Prop :=
  ∀ (b0 b1 b2 : Byte) (c : BitVec 3),
    decode ⟨.adcCmd, [b0, b1, b2]⟩ = .ok (.adcCmd c) ↔
      (b0 ++ b1 ++ b2 : BitVec 24) = 0x018000#24 ||| (c.setWidth 24 <<< 12)

/-- A protocol byte with selector 0 is one of the eight commands of the map, each its own row, or is refused; with selector 1 it is a
data byte, whatever its value (R76). -/
def Obligations.CommandMapIsComplete : Prop :=
  (∀ (v : Byte) (i : Instr), decode ⟨.lcdByte, [v, 0]⟩ = .ok i ↔ (i, v) ∈ commandRows) ∧
    ∀ v : Byte, decode ⟨.lcdByte, [v, 1]⟩ = .ok (.lcdData v)

/-! ## Reset and the invariant -/

/-- What reset leaves (10_state.md R20): LCDST Uninitialized, SEQ Idle, every line Unknown, no working value; and the core then waits.
That CFG is legal at reset is the model's choice of pins (entry 7). -/
def Obligations.ResetLeavesTheStateOfTheSpec : Prop :=
  State.reset.lcdst = .uninitialized ∧ State.reset.seq = .idle ∧ (∀ l : Line, State.reset.lvl.get l = .unknown) ∧
    State.reset.locals = {} ∧ State.reset.trace = [] ∧ State.reset.responses = [] ∧
    legalCfg State.reset.cfg ∧ step State.reset = .next State.reset

/-- The invariant holds at reset. -/
def Obligations.ResetHasTheInvariant : Prop := CoreInv State.reset

/-- Every step keeps the invariant, from every state that has it (R12, R14, R15, R178). -/
def Obligations.StepKeepsTheInvariant : Prop :=
  ∀ s t : State, CoreInv s → step s = .next t → CoreInv t

/-- A second reset restores the state of R20 and tells the display nothing (70_reset_and_hazards.md R240); that the outputs so far and the
environment stay is entry 18. -/
def Obligations.SecondResetRestoresTheCoreOnly : Prop :=
  ∀ s : State,
    (secondReset s).lcdst = .uninitialized ∧ (secondReset s).seq = .idle ∧
      (∀ l : Line, (secondReset s).lvl.get l = .unknown) ∧ (secondReset s).locals = {} ∧
      (secondReset s).cfg = s.cfg ∧ (secondReset s).display = s.display ∧ (secondReset s).trace = s.trace

/-! ## The step -/

/-- When the core is Idle and the next packet decodes to an instruction, the step is that instruction's meaning in the state without the
packet (entry 2). -/
def Obligations.StepRunsTheDecodedPacket : Prop :=
  ∀ (s : State) (p : Packet) (rest : List Packet) (i : Instr),
    s.seq = .idle → s.inbox = p :: rest → decode p = .ok i → step s = exec i { s with inbox := rest }

/-- Idle and with no packet, the core waits and holds its lines (60_exceptions.md R218); a packet that is no instruction is refused by name
(R86). -/
def Obligations.IdleCoreWaitsOrRefuses : Prop :=
  (∀ s : State, s.seq = .idle → s.inbox = [] → step s = .next s) ∧
    ∀ (s : State) (p : Packet) (rest : List Packet) (e : DecodeError),
      s.seq = .idle → s.inbox = p :: rest → decode p = .error e → step s = .refused (.undecodable e)

/-- A request made while an operation is in progress has no step (20_memory.md R56). -/
def Obligations.OverlappingRequestIsRefused : Prop :=
  ∀ (s : State) (op : Instr) (k : Nat) (i : Instr),
    s.seq = .busy op k → hostOperation i = true → exec i s = .refused .overlappingRequest

/-- An operation run as one step is the same operation run one event at a time from SEQ = 0 (10_state.md R14).
That the model has both forms is entry 14, that a hang is a step to the same state is entry 8; an internal operation or a protocol byte run
alone is entry 1. -/
def Obligations.BigStepIsTheIteratedEventStep : Prop :=
  ∀ (op : Instr) (s : State),
    s.seq = .idle → 0 < (plan op).length → accepted op s →
      (∀ channel : Int, op = .readChannel channel → 0 ≤ channel ∧ channel ≤ 7) →
      ∃ (t : State) (n : Nat),
        exec op s = .next t ∧ n ≤ (plan op).length ∧ Host.Core.run Sys2Proof.core n (beginOperation op s) = .next t

/-- SEQ goes one event forward, back to Idle, or, where the bus hangs, nothing at all changes (R14). That a
hang is a step to the same state is entry 8. -/
def Obligations.SequencerNeverSkipsOrGoesBack : Prop :=
  ∀ (s t : State) (op : Instr) (k : Nat),
    s.seq = .busy op k → step s = .next t → t.seq = .busy op (k + 1) ∨ t.seq = .idle ∨ t = s

/-- Event k of LCD_INIT and of LCD_WRITE_LINE is event k mod 19 of its SEND_BYTE number k div 19, and the step at that position makes it, or
its SET_FAIL where it is a pin write that fails. 42_display_driver.md R182 marks the position as derived from R163, R172 and R175; that a
step makes one event at a time is entry 14 (10_state.md R14 permits a big step too).
The order inside each group of data line writes is D7, entry 23 (R166 allows others). -/
def Obligations.EventOfASequencerPosition : Prop :=
  ∀ (s : State) (op : Instr) (bytes : List (Byte × Bool)) (k : Nat),
    (op = .lcdInit ∧ bytes = initBytes ∨ ∃ text line, op = .lcdWriteLine text line ∧ bytes = lineBytes text line) →
      s.seq = .busy op k → k < 19 * bytes.length →
      ∃ (b : Byte × Bool) (ev : Event) (t : State),
        bytes[k / 19]? = some b ∧ (sendByteEvents b.1 b.2)[k % 19]? = some ev ∧ step s = .next t ∧
          ((s.pins.head = .ok ∨ ∃ d, ev = .dly d) → t.trace = s.trace ++ [ev]) ∧
          ∀ l v, s.pins.head = .fails → ev = .set l v → t.trace = s.trace ++ [.setFail l v]

/-- A step only adds to the trace and to the responses, and never changes CFG (20_memory.md R54, 10_state.md R13). -/
def Obligations.StepOnlyAddsToTheOutputs : Prop :=
  ∀ s t : State, step s = .next t →
    (∃ evs, t.trace = s.trace ++ evs) ∧ (∃ rs, t.responses = s.responses ++ rs) ∧ t.cfg = s.cfg

/-! ## AdcReader -/

/-- READ_CHANNEL of a legal channel on a bus that answers three bytes: one exchange of the channel's frame, and the ten bits are
answered; nothing else changes (40_adc_reader.md R112, R113, R114, R118). -/
def Obligations.ReadChannelReturnsTheSample : Prop :=
  ∀ (s : State) (channel : Int) (b0 b1 b2 : Byte),
    s.seq = .idle → 0 ≤ channel → channel ≤ 7 → s.bus.head = .returns [b0, b1, b2] →
      exec (.readChannel channel) s =
        .next { s with
          trace := s.trace ++ [.xfer ⟨0x01, BitVec.ofNat 8 (0x80 + 16 * channel.toNat), 0x00⟩ ⟨b0, b1, b2⟩]
          responses := s.responses ++ [.ok (.sample (BitVec.ofNat 10 (b1.toNat % 4 * 256 + b2.toNat)))]
          bus := s.bus.skip 1
          locals := {} }

/-- A channel outside [0, 7] is answered INVALID_ARGUMENT, with no event and nothing else changed (R111, R209). -/
def Obligations.ReadChannelRejectsAnIllegalChannel : Prop :=
  ∀ (s : State) (channel : Int),
    s.seq = .idle → channel < 0 ∨ 7 < channel →
      exec (.readChannel channel) s =
        .next { s with responses := s.responses ++ [.failed .invalidArgument], locals := {} }

/-- A bus that fails, or answers other than three bytes, gives BUS_FAILURE after one failed exchange and no sample (R115, R116, R46). -/
def Obligations.ReadChannelReportsABusFailure : Prop :=
  ∀ (s : State) (channel : Int) (rx : List Byte),
    s.seq = .idle → 0 ≤ channel → channel ≤ 7 →
      (s.bus.head = .fails ∨ s.bus.head = .returns rx ∧ rx.length ≠ 3) →
      exec (.readChannel channel) s =
        .next { s with
          trace := s.trace ++ [.xferFail ⟨0x01, BitVec.ofNat 8 (0x80 + 16 * channel.toNat), 0x00⟩]
          responses := s.responses ++ [.failed .busFailure]
          bus := s.bus.skip 1
          locals := {} }

/-- A bus that never returns leaves READ_CHANNEL in progress for ever: no event, no answer, no later request taken (R119). That the hang is a
step to the same state, for ever, is the model's form of it (entry 8; R46 speaks of no enabled step, R119 of an infinite or stuck
execution). -/
def Obligations.HungBusIsNeverAnswered : Prop :=
  ∀ (s : State) (channel : Int),
    s.seq = .idle → 0 ≤ channel → channel ≤ 7 → s.bus.head = .never →
      ∃ t : State,
        exec (.readChannel channel) s = .next t ∧ t.seq = .busy (.readChannel channel) 0 ∧ t.trace = s.trace ∧
          t.responses = s.responses ∧ t.lcdst = s.lcdst ∧ t.lvl = s.lvl ∧
          (∀ n : Nat, Host.Core.run Sys2Proof.core n t = .next t) ∧
          ∀ i : Instr, hostOperation i = true → exec i t = .refused .overlappingRequest

/-- The fourteen unused bits of a response influence nothing but the record of the exchange in the trace (R87, R117). -/
def Obligations.UnusedResponseBitsHaveNoEffect : Prop :=
  ∀ (s t : State) (channel : Int) (a0 a1 b0 b1 b2 : Byte) (l : List BusAnswer) (r : BusAnswer),
    s.seq = .idle → 0 ≤ channel → channel ≤ 7 → a1 &&& 0x03 = b1 &&& 0x03 →
      exec (.readChannel channel) { s with bus := ⟨.returns [a0, a1, b2] :: l, r⟩ } = .next t →
      ∃ u : State,
        exec (.readChannel channel) { s with bus := ⟨.returns [b0, b1, b2] :: l, r⟩ } = .next u ∧
          { u with trace := t.trace } = t

/-- Against the reference converter, READ_CHANNEL answers the code of the channel it names, whatever the noise (R48, R49, R117). -/
def Obligations.ReadChannelAnswersTheConvertersCode : Prop :=
  ∀ (channel : Int) (inputs : BitVec 3 → Sample) (noise : BitVec 14),
    0 ≤ channel → channel ≤ 7 →
      ∃ rx : Frame, converterAnswer inputs noise (commandFrame channel) = some rx ∧
        ∀ s : State, s.seq = .idle → s.bus.head = .returns [rx.b0, rx.b1, rx.b2] →
          ∃ t : State, exec (.readChannel channel) s = .next t ∧
            t.responses = s.responses ++ [.ok (.sample (inputs (BitVec.ofInt 3 channel)))]

/-- ADC_CMD run alone makes the exchange of its frame and answers nothing (R71, R46; that it is run alone is entry 1). -/
def Obligations.CommandFrameMakesOneExchange : Prop :=
  ∀ (s : State) (channel : BitVec 3) (b0 b1 b2 : Byte),
    s.seq = .idle → s.bus.head = .returns [b0, b1, b2] →
      exec (.adcCmd channel) s =
        .next { s with
          trace := s.trace ++ [.xfer ⟨0x01, BitVec.ofNat 8 (0x80 + 16 * channel.toNat), 0x00⟩ ⟨b0, b1, b2⟩]
          bus := s.bus.skip 1
          locals := {} }

/-- ADC_CMD run alone on a bus that fails is answered BUS_FAILURE after one failed exchange; on a bus that never returns it stays in
progress for ever (R46, R115, R119; that it is run alone is entry 1, and that the hang is a step to the same state is entry 8). -/
def Obligations.CommandFrameFailsOrHangsWithTheBus : Prop :=
  ∀ (s : State) (channel : BitVec 3) (rx : List Byte), s.seq = .idle →
    ((s.bus.head = .fails ∨ s.bus.head = .returns rx ∧ rx.length ≠ 3) →
      exec (.adcCmd channel) s =
        .next { s with
          trace := s.trace ++ [.xferFail ⟨0x01, BitVec.ofNat 8 (0x80 + 16 * channel.toNat), 0x00⟩]
          responses := s.responses ++ [.failed .busFailure]
          bus := s.bus.skip 1
          locals := {} }) ∧
    (s.bus.head = .never →
      ∃ t : State, exec (.adcCmd channel) s = .next t ∧ t.trace = s.trace ∧ t.responses = s.responses ∧
        ∀ n : Nat, Host.Core.run Sys2Proof.core n t = .next t)

/-- ADC_RSP run alone answers the ten significant bits of the response (R74, R114; that it is run alone is entry 1). -/
def Obligations.ResponseIsDecodedToTheSample : Prop :=
  ∀ (s : State) (b0 b1 b2 : Byte),
    s.seq = .idle →
      exec (.adcRsp ⟨b0, b1, b2⟩) s =
        .next { s with
          responses := s.responses ++ [.ok (.sample (BitVec.ofNat 10 (b1.toNat % 4 * 256 + b2.toNat)))]
          locals := {} }

/-- READ_CHANNEL is its command frame followed by its response (R113; entry 1). -/
def Obligations.ReadChannelIsCommandThenResponse : Prop :=
  ∀ (s : State) (channel : BitVec 3) (b0 b1 b2 : Byte),
    s.seq = .idle → s.bus.head = .returns [b0, b1, b2] →
      ∃ t : State, exec (.adcCmd channel) s = .next t ∧
        exec (.adcRsp ⟨b0, b1, b2⟩) t = exec (.readChannel channel.toNat) s

/-! ## TemperatureConverter -/

/-- CONVERT with a positive fullScaleCode answers RND(T * 10^places) of the exact rational T, by ROUND_MODE of CFG, and changes nothing
else (41_temperature_converter.md R134 to R137, R140, R144).
That T is an exact rational and the result the integer RND(T * 10^places) is D11, and that the tie rule is a parameter is D12, both entry 23. -/
def Obligations.ConvertAnswersTheRoundedTemperature : Prop :=
  ∀ (s : State) (sample : Sample) (model : SensorModel) (places : Nat),
    s.seq = .idle → 0 < model.fullScaleCode →
      exec (.convert sample model places) s =
        .next { s with
          responses := s.responses ++
            [.ok (.temperature (temperatureCodeExact s.cfg.roundMode sample model places))]
          locals := {} }

/-- CONVERT with a fullScaleCode that is not positive is answered INVALID_ARGUMENT; with any other it is answered OK with a value, whatever
the sample, the other fields and the places (R132, R140).
That fullScaleCode is the only field checked is D28, entry 23. -/
def Obligations.ConvertFailsExactlyOnAMalformedModel : Prop :=
  ∀ (s : State) (sample : Sample) (model : SensorModel) (places : Nat), s.seq = .idle →
    (model.fullScaleCode ≤ 0 →
      exec (.convert sample model places) s =
        .next { s with responses := s.responses ++ [.failed .invalidArgument], locals := {} }) ∧
    (0 < model.fullScaleCode →
      ∃ (t : State) (tq : Int), exec (.convert sample model places) s = .next t ∧
        t.responses = s.responses ++ [.ok (.temperature tq)] ∧ t.trace = s.trace)

/-- The integer form equals the rational one for every operand with a positive fullScaleCode (R139).
R139 is marked as derived from R134 to R137; exact rationals are D11, entry 23. -/
def Obligations.IntegerFormEqualsTheRationalForm : Prop :=
  ∀ (mode : RoundMode) (sample : Sample) (model : SensorModel) (places : Nat),
    0 < model.fullScaleCode →
      temperatureCode mode sample model places = temperatureCodeExact mode sample model places

/-- Both tie rules are symmetric about zero and monotone (R137).
That there are two tie rules to choose from by a parameter is D12, entry 23. -/
def Obligations.RoundingIsSymmetricAndMonotone : Prop :=
  ∀ mode : RoundMode,
    (∀ q : ℚ, roundExact mode (-q) = -roundExact mode q) ∧
      ∀ q1 q2 : ℚ, q1 ≤ q2 → roundExact mode q1 ≤ roundExact mode q2

/-- Sample 0 gives the rounded offset, and the full-scale sample the rounded referenceVoltage * scale + offset (R141, R142; R142 is
marked as derived from R134).
Exact rationals and the integer result are D11, entry 23. -/
def Obligations.ZeroAndFullScaleIdentities : Prop :=
  ∀ (mode : RoundMode) (sample : Sample) (model : SensorModel) (places : Nat),
    0 < model.fullScaleCode →
      temperatureCode mode 0 model places = roundExact mode (fracValue model.offset * 10 ^ places) ∧
        ((sample.toNat : Int) = model.fullScaleCode →
          temperatureCode mode sample model places =
            roundExact mode
              ((fracValue model.referenceVoltage * fracValue model.scale + fracValue model.offset) * 10 ^ places))

/-- The result is non-decreasing in the sample when referenceVoltage * scale is not negative, and non-increasing when it is negative.
R143 marks this general form as its own inference from R134 to R137; its source says so of the default model only.
Exact rationals and the integer result are D11, entry 23. -/
def Obligations.ConvertIsMonotoneInTheSample : Prop :=
  ∀ (mode : RoundMode) (a b : Sample) (model : SensorModel) (places : Nat),
    0 < model.fullScaleCode → a.toNat ≤ b.toNat →
      (0 ≤ fracValue model.referenceVoltage * fracValue model.scale →
        temperatureCode mode a model places ≤ temperatureCode mode b model places) ∧
      (fracValue model.referenceVoltage * fracValue model.scale < 0 →
        temperatureCode mode b model places ≤ temperatureCode mode a model places)

/-- Under the two models the source mentions no sample is a tie (twice the remainder of the division is never the divisor), so the two tie
rules agree. R145 says so for places 0 to 3, as derived by evaluation; it holds for every number of places.
Exact rationals and the integer result are D11, entry 23. -/
def Obligations.NoTieUnderTheTwoPresets : Prop :=
  ∀ (sample : Sample) (places : Nat) (model : SensorModel),
    model = Config.model10mV ∨ model = Config.modelSpan →
      2 * (tqNum sample model places - floorDiv (tqNum sample model places) (tqDen model) * tqDen model) ≠ tqDen model ∧
        temperatureCode .halfEven sample model places = temperatureCode .halfAway sample model places

/-! ## DisplayDriver -/

/-- PUT_NIBBLE writes each data line once, in the order of the spec's sixteen-row table, and touches neither RS nor E (R165).
That PUT_NIBBLE is given alone to an Idle core and ends Idle without an answer is entry 1; the ascending order inside the two groups is D7,
entry 23 (R166 allows others). -/
def Obligations.PutNibbleWritesTheTableRow : Prop :=
  ∀ (s : State) (n : Nibble),
    s.seq = .idle → pinsAllow 4 s.pins = true →
      exec (.putNibble n) s =
        .next { s with
          trace := s.trace ++ nibbleEvents n
          lvl := { s.lvl with
            db0 := driven (levelOf (n.getLsbD 0)), db1 := driven (levelOf (n.getLsbD 1))
            db2 := driven (levelOf (n.getLsbD 2)), db3 := driven (levelOf (n.getLsbD 3)) }
          pins := s.pins.skip 4
          display := watch s.lvl (nibbleEvents n) s.display
          locals := {} }

/-- STROBE is settle, E High, pulse, E Low, settle, and touches no line but E (R167). That STROBE is given alone to an Idle core and ends Idle
without an answer is entry 1. -/
def Obligations.StrobeIsFiveEventsOnE : Prop :=
  ∀ s : State,
    s.seq = .idle → pinsAllow 2 s.pins = true →
      exec .strobe s =
        .next { s with
          trace := s.trace ++ [.dly .settle, .set .e .high, .dly .pulse, .set .e .low, .dly .settle]
          lvl := { s.lvl with e := .low }
          pins := s.pins.skip 2
          display := watch s.lvl strobeEvents s.display
          locals := {} }

/-- SEND_BYTE emits the nineteen events of its table and leaves RS by the selector, E Low and the low nibble on the data lines (R163, R164,
R178). SEND_BYTE is internal (R162, D20): that it is given alone to an Idle core and ends Idle without an answer is entry 1; the order inside
the groups of data line writes is D7, entry 23. -/
def Obligations.SendByteEmitsNineteenEvents : Prop :=
  ∀ (s : State) (v : Byte) (isData : Bool),
    s.seq = .idle → pinsAllow 13 s.pins = true →
      (sendByteEvents v isData).length = 19 ∧
      exec (.sendByte v isData) s =
        .next { s with
          trace := s.trace ++ sendByteEvents v isData
          lvl := ⟨driven (rsLevel isData), .low, driven (levelOf (v.getLsbD 0)), driven (levelOf (v.getLsbD 1)),
            driven (levelOf (v.getLsbD 2)), driven (levelOf (v.getLsbD 3))⟩
          pins := s.pins.skip 13
          display := watch s.lvl (sendByteEvents v isData) s.display
          locals := {} }

/-- Each row of the command map, and a data byte, sends its byte with its selector (R76, R81; that a row is run alone is entry 1).
The order inside each group of data line writes is D7, entry 23 (R166 allows others). -/
def Obligations.ProtocolByteRowsSendTheirByte : Prop :=
  ∀ (s : State) (i : Instr) (v : Byte) (isData : Bool),
    s.seq = .idle → pinsAllow 13 s.pins = true →
      ((i, v) ∈ commandRows ∧ isData = false ∨ i = .lcdData v ∧ isData = true) →
      exec i s =
        .next { s with
          trace := s.trace ++ sendByteEvents v isData
          lvl := linesAfter s.lvl (sendByteEvents v isData)
          pins := s.pins.skip 13
          display := watch s.lvl (sendByteEvents v isData) s.display
          locals := {} }

/-- LCD_INIT, from either state, sends the six command bytes, becomes Ready and answers OK (R172, R183).
The order inside each group of data line writes is D7, entry 23 (R166 allows others). -/
def Obligations.InitSendsSixCommandsAndBecomesReady : Prop :=
  ∀ s : State,
    s.seq = .idle → pinsAllow 78 s.pins = true →
      exec .lcdInit s =
        .next { s with
          lcdst := .ready
          trace := s.trace ++ bytesEvents initBytes
          responses := s.responses ++ [.ok .none]
          lvl := ⟨.low, .low, .high, .low, .low, .low⟩
          pins := s.pins.skip 78
          display := watch s.lvl (bytesEvents initBytes) s.display
          locals := {} }

/-- LCD_CLEAR in Ready sends the command byte 0x01 and answers OK, and LCDST stays Ready (R173).
The order inside each group of data line writes is D7, entry 23 (R166 allows others). -/
def Obligations.ClearSendsOneCommand : Prop :=
  ∀ s : State,
    s.seq = .idle → s.lcdst = .ready → pinsAllow 13 s.pins = true →
      exec .lcdClear s =
        .next { s with
          trace := s.trace ++ sendByteEvents 0x01 false
          responses := s.responses ++ [.ok .none]
          lvl := ⟨.low, .low, .high, .low, .low, .low⟩
          pins := s.pins.skip 13
          display := watch s.lvl (sendByteEvents 0x01 false) s.display
          locals := {} }

/-- LCD_WRITE_LINE in Ready sends the line address and the sixteen cells of the padded or cut text, and answers OK (R80, R174, R175,
R176). The padding byte 0x20 is D10, entry 23.
The order inside each group of data line writes is D7, entry 23 (R166 allows others). -/
def Obligations.WriteLineSendsAddressAndSixteenCells : Prop :=
  ∀ (s : State) (text : List Byte) (line : LineSel),
    s.seq = .idle → s.lcdst = .ready → pinsAllow 221 s.pins = true →
      (paddedText text).length = 16 ∧
      exec (.lcdWriteLine text line) s =
        .next { s with
          trace := s.trace ++ bytesEvents (lineBytes text line)
          responses := s.responses ++ [.ok .none]
          lvl := linesAfter s.lvl (bytesEvents (lineBytes text line))
          pins := s.pins.skip 221
          display := watch s.lvl (bytesEvents (lineBytes text line)) s.display
          locals := {} }

/-- In Uninitialized, LCD_CLEAR and LCD_WRITE_LINE are answered NOT_READY, with no event and nothing else changed; in Ready neither is; and
LCD_INIT, which has no guard, never is (R171). The status NOT_READY is the spec's own decision D4, entry 23 (R206 lets a model refuse the
operation instead). -/
def Obligations.UninitializedDisplayIsNotReady : Prop :=
  ∀ (s : State) (i : Instr), s.seq = .idle →
    ((i = .lcdClear ∨ ∃ text line, i = .lcdWriteLine text line) →
      (s.lcdst = .uninitialized →
        exec i s = .next { s with responses := s.responses ++ [.failed .notReady], locals := {} }) ∧
      (s.lcdst = .ready →
        ∃ t : State, exec i s = .next t ∧ t.responses ≠ s.responses ++ [.failed .notReady])) ∧
    ∃ t : State, exec .lcdInit s = .next t ∧ t.responses ≠ s.responses ++ [.failed .notReady]

/-- The first failing pin write ends a display operation: the events before it have happened, SET_FAIL is the last, the line is Unknown,
LCDST is Uninitialized, the answer is PIN_FAILURE, and the display is unknown (R177, R180, R207).
That an internal operation or a protocol byte is run alone is entry 1.
The order inside each group of data line writes is D7, entry 23 (R166 allows others). -/
def Obligations.PinFailureTruncatesTheOperation : Prop :=
  ∀ (s : State) (i : Instr) (before after : List Event) (l : Line) (v : Level),
    s.seq = .idle → accepted i s → displayEvents i = some (before ++ .set l v :: after) →
      pinsAllow (pinWrites before) s.pins = true → (s.pins.skip (pinWrites before)).head = .fails →
      exec i s =
        .next { s with
          lcdst := .uninitialized
          trace := s.trace ++ before ++ [.setFail l v]
          responses := s.responses ++ [.failed .pinFailure]
          lvl := (linesAfter s.lvl before).put l .unknown
          pins := s.pins.skip (pinWrites before + 1)
          display := Display.unknown
          locals := {} }

/-- Whatever the pins answer, what a display operation adds to the trace is a list of whole strobes and line writes between them, or such
a list cut at a failing write (R168, R177).
That an internal operation or a protocol byte is run alone is entry 1. -/
def Obligations.StrobeShapeIsNeverBroken : Prop :=
  ∀ (s t : State) (i : Instr) (full : List Event),
    s.seq = .idle → displayEvents i = some full → exec i s = .next t →
      ∃ evs : List Event, strobeShaped evs = true ∧
        (newEvents s t = evs ∨
          ∃ (k : Nat) (l : Line) (v : Level), evs[k]? = some (.set l v) ∧
            newEvents s t = evs.take k ++ [.setFail l v])

/-- The bytes told from the lines at the lowerings of E are the bytes the operation sends, in order, with their selectors (R45, R77, R78,
R79).
That an internal operation or a protocol byte is run alone is entry 1. -/
def Obligations.BytesOnTheWireAreTheBytesSent : Prop :=
  ∀ (s : State) (i : Instr) (bytes : List (Byte × Bool)),
    s.seq = .idle → accepted i s → bytesOf i = some bytes → pinsAllow (13 * bytes.length) s.pins = true →
      ∃ t : State, exec i s = .next t ∧
        bytesOnWire s.lvl (newEvents s t) = bytes.map (fun p => some (p.2, p.1))

/-- No operation a host can request, however the pins answer, puts any command byte outside the map on the wire (R76, R162). -/
def Obligations.HostCanSendOnlyTheCommandMap : Prop :=
  ∀ (s t : State) (i : Instr),
    s.seq = .idle → hostOperation i = true → exec i s = .next t →
      ∀ x ∈ bytesOnWire s.lvl (newEvents s t),
        ∃ (r : Bool) (v : Byte), x = some (r, v) ∧ (r = true ∨ v ∈ commandBytes)

/-- Events, pin writes, delays and strobes of the completed operations (R181).
That an internal operation or a protocol byte is run alone is entry 1. -/
def Obligations.CountsOfCompletedOperations : Prop :=
  ∀ (s : State) (i : Instr) (n : Nat),
    s.seq = .idle → accepted i s →
      (i = .lcdInit ∧ n = 6 ∨ i = .lcdClear ∧ n = 1 ∨ (∃ text line, i = .lcdWriteLine text line ∧ n = 17) ∨
        ∃ v isData, i = .sendByte v isData ∧ n = 1) →
      pinsAllow (13 * n) s.pins = true →
      ∃ t : State, exec i s = .next t ∧ (newEvents s t).length = 19 * n ∧ pinWrites (newEvents s t) = 13 * n ∧
        delays (newEvents s t) = 6 * n ∧ strobes (newEvents s t) = 2 * n

/-- Lower bounds on the duration of the completed operations, in microseconds, for every legal CFG (R254).
That an internal operation or a protocol byte is run alone is entry 1. -/
def Obligations.DurationsAreBoundedBelow : Prop :=
  ∀ s : State, s.seq = .idle → s.lcdst = .ready → legalCfg s.cfg → pinsAllow 221 s.pins = true →
    (∃ t, exec .strobe s = .next t ∧ 1500 ≤ minDuration s.cfg (newEvents s t)) ∧
      (∀ v isData, ∃ t, exec (.sendByte v isData) s = .next t ∧ 3000 ≤ minDuration s.cfg (newEvents s t)) ∧
      (∃ t, exec .lcdClear s = .next t ∧ 3000 ≤ minDuration s.cfg (newEvents s t)) ∧
      (∃ t, exec .lcdInit s = .next t ∧ 18000 ≤ minDuration s.cfg (newEvents s t)) ∧
      ∀ text line, ∃ t, exec (.lcdWriteLine text line) s = .next t ∧
        51000 ≤ minDuration s.cfg (newEvents s t)

/-! ## The display -/

/-- On a display in step, a completed LCD_WRITE_LINE leaves the text in its row, cell by cell, and every other cell as it was (R180). -/
def Obligations.DisplayShowsTheWrittenLine : Prop :=
  ∀ (s : State) (text : List Byte) (line : LineSel),
    s.seq = .idle → s.lcdst = .ready → pinsAllow 221 s.pins = true → inStep s.display →
      ∃ t : State, exec (.lcdWriteLine text line) s = .next t ∧ inStep t.display ∧
        (∀ col : Nat, col < 16 →
          Memory.read t.display.cells (cellAddress line col) = (paddedText text)[col]?) ∧
        ∀ a : Nat, a < cellAddress line 0 ∨ cellAddress line 16 ≤ a →
          Memory.read t.display.cells a = Memory.read s.display.cells a

/-- A completed LCD_INIT blanks all 32 cells of any display, whatever state it was in, and brings it into step; on a display in step, so
does LCD_CLEAR (R180, R241). That a blank is 0x20 is entry 10, and how the bootstrapping is recognised is entry 12. -/
def Obligations.InitAndClearBlankTheDisplay : Prop :=
  (∀ s : State, s.seq = .idle → pinsAllow 78 s.pins = true →
    ∃ t : State, exec .lcdInit s = .next t ∧ inStep t.display ∧
      ∀ a : Nat, Memory.read t.display.cells a = if isCell a = true then some 0x20 else none) ∧
  ∀ s : State, s.seq = .idle → s.lcdst = .ready → pinsAllow 13 s.pins = true → inStep s.display →
    ∃ t : State, exec .lcdClear s = .next t ∧ inStep t.display ∧
      ∀ a : Nat, Memory.read t.display.cells a = if isCell a = true then some 0x20 else none

/-- On a display in step, a data byte lands in the cell at the cursor and nowhere else, and the cursor moves on; a line-address command
moves the cursor to the row's first column and changes no cell (R50).
That an internal operation or a protocol byte is run alone is entry 1. -/
def Obligations.DataLandsAtTheCursor : Prop :=
  ∀ s : State, s.seq = .idle → pinsAllow 13 s.pins = true → inStep s.display →
    (∀ (v : Byte) (row : LineSel) (col : Nat), s.display.cursor = .at row col → col < 16 →
      ∃ t : State, exec (.lcdData v) s = .next t ∧ inStep t.display ∧ t.display.cursor = .at row (col + 1) ∧
        Memory.read t.display.cells (cellAddress row col) = some v ∧
        ∀ a : Nat, a ≠ cellAddress row col → Memory.read t.display.cells a = Memory.read s.display.cells a) ∧
    (∃ t : State, exec .lcdCmdSetLine1 s = .next t ∧ inStep t.display ∧ t.display.cursor = .at .line1 0 ∧
      ∀ a : Nat, Memory.read t.display.cells a = Memory.read s.display.cells a) ∧
    ∃ t : State, exec .lcdCmdSetLine2 s = .next t ∧ inStep t.display ∧ t.display.cursor = .at .line2 0 ∧
      ∀ a : Nat, Memory.read t.display.cells a = Memory.read s.display.cells a

/-- The core cannot see the display: with another display an instruction does the same, but for the display (10_state.md R17). -/
def Obligations.CoreCannotSeeTheDisplay : Prop :=
  ∀ (i : Instr) (s : State) (d : Display),
    (∀ t, exec i s = .next t → ∃ d', exec i { s with display := d } = .next { t with display := d' }) ∧
      (∀ r, exec i s = .refused r → exec i { s with display := d } = .refused r) ∧ ∀ f, exec i s ≠ .fault f

/-- Reading, converting, and the words of the host's and the bus's ports leave LCDST, the lines, the pins and every cell of the display as they
were (R11, R118, R144; that a response is run alone is entry 1). -/
def Obligations.OtherUnitsLeaveTheDisplayAlone : Prop :=
  ∀ (i : Instr) (s t : State), displayEvents i = none → exec i s = .next t →
    t.lcdst = s.lcdst ∧ t.lvl = s.lvl ∧ t.pins = s.pins ∧ t.cfg = s.cfg ∧ t.inbox = s.inbox ∧
      ∀ a : Nat, Memory.read t.display.cells a = Memory.read s.display.cells a

/-! ## Failures and the host -/

/-- LCDST changes in two ways only: LCD_INIT completes, or a display operation ends in PIN_FAILURE with a failed pin write as its last event
(R11, R161, R177). The internal operations and the display bytes, run alone (entry 1), count as display operations. -/
def Obligations.DriverStateChangesInTwoWays : Prop :=
  ∀ (i : Instr) (s t : State), exec i s = .next t → t.lcdst ≠ s.lcdst →
    (i = .lcdInit ∧ t.lcdst = .ready ∧ t.responses = s.responses ++ [.ok .none]) ∨
      ((displayEvents i).isSome = true ∧ t.lcdst = .uninitialized ∧ t.responses = s.responses ++ [.failed .pinFailure] ∧
        ∃ l v, t.trace.getLast? = some (.setFail l v))

/-- INVALID_ARGUMENT depends on the operands only, and has no effect but the answer (R202). -/
def Obligations.InvalidArgumentDependsOnOperandsOnly : Prop :=
  ∀ (i : Instr) (s t : State), hostOperation i = true → exec i s = .next t →
    t.responses = s.responses ++ [.failed .invalidArgument] →
      t = { s with responses := t.responses, locals := {} } ∧
        ∀ s' : State, s'.seq = .idle → ∃ t' : State, exec i s' = .next t' ∧ t'.trace = s'.trace ∧
          t'.responses = s'.responses ++ [.failed .invalidArgument]

/-- A host operation is answered exactly once, unless the bus hangs; only READ_CHANNEL can hang (R205, R207, R211). -/
def Obligations.EveryRequestIsAnsweredOnceUnlessTheBusHangs : Prop :=
  ∀ (i : Instr) (s t : State), hostOperation i = true → exec i s = .next t →
    (∃ r : Response, t.responses = s.responses ++ [r] ∧ t.seq = .idle) ∨
      (s.bus.head = .never ∧ t.responses = s.responses ∧ ∃ channel : Int, i = .readChannel channel)

/-- After a display operation has ended in PIN_FAILURE, LCD_CLEAR and LCD_WRITE_LINE are answered NOT_READY until an LCD_INIT completes (R210,
R177; the status NOT_READY is D4, entry 23). -/
def Obligations.PinFailureIsRecoveredByInit : Prop :=
  ∀ (i : Instr) (s t : State), (displayEvents i).isSome = true → exec i s = .next t →
    t.responses = s.responses ++ [.failed .pinFailure] →
    (∃ u : State, exec .lcdClear t = .next u ∧ u.responses = t.responses ++ [.failed .notReady]) ∧
      (∀ text line, ∃ u : State, exec (.lcdWriteLine text line) t = .next u ∧
        u.responses = t.responses ++ [.failed .notReady]) ∧
      (pinsAllow 78 t.pins = true → ∃ u : State, exec .lcdInit t = .next u ∧ u.lcdst = .ready)

/-- A reserved op code is answered INVALID_ARGUMENT, with no event and nothing else changed (R85). -/
def Obligations.ReservedOpCodesAreInvalidArguments : Prop :=
  ∀ (i : Instr) (s : State), s.seq = .idle →
    (i = .reservedOpc5 ∨ i = .reservedOpc6 ∨ i = .reservedOpc7) →
      exec i s = .next { s with responses := s.responses ++ [.failed .invalidArgument], locals := {} }

/-- The response rows run alone give the host their status, with the value for OK only, and change nothing else (R84, R11; that a response is
run alone is entry 1, and that it then writes no LCDST is entry 17). -/
def Obligations.StatusRowsAnswerTheHost : Prop :=
  ∀ s : State, s.seq = .idle →
    (∀ v, exec (.statusOk v) s = .next { s with responses := s.responses ++ [.ok v], locals := {} }) ∧
      exec .statusInvalidArgument s =
        .next { s with responses := s.responses ++ [.failed .invalidArgument], locals := {} } ∧
      exec .statusBusFailure s =
        .next { s with responses := s.responses ++ [.failed .busFailure], locals := {} } ∧
      exec .statusPinFailure s =
        .next { s with responses := s.responses ++ [.failed .pinFailure], locals := {} } ∧
      exec .statusNotReady s =
        .next { s with responses := s.responses ++ [.failed .notReady], locals := {} }

/-- A reserved status is never produced: its row is refused by name (R84), and every response has one of the five statuses, with a value
for OK only. -/
def Obligations.ReservedStatusesAreNeverProduced : Prop :=
  (∀ s : State, exec .reservedStatus5 s = .refused (.reservedStatus 5) ∧
    exec .reservedStatus6 s = .refused (.reservedStatus 6) ∧
    exec .reservedStatus7 s = .refused (.reservedStatus 7)) ∧
    ∀ r : Response, (statusCode r).toNat ≤ 4 ∧ ((responseValue r).isSome = true ↔ statusCode r = 0)

/-! ## Lengths -/

/-- A packet of a format of fixed length decodes only if it has exactly that length; the request and the response carry operands and a
value after their 3-bit codes (R70). That 9 bits take two bytes and 4 or 5 bits one is the model's packing into bytes (entry 24). -/
def Obligations.FixedFormatsHaveTheirLength : Prop :=
  ∀ (p : Packet) (i : Instr) (n : Nat), decode p = .ok i → fixedLength p.port = some n → p.bytes.length = n
end

