-- ==== Sys2Proof/Laws/Decode.lean ====
section
/-! SUPPORT. What the decoder can answer, said once. -/

namespace Sys2Proof

@[simp] theorem mayFollow_nil (port : Port) : mayFollow port [] = true := by cases port <;> rfl

/-- A packet decodes to an instruction exactly when its format reads the instruction and allows what is left. -/
theorem decode_eq_ok {p : Packet} {i : Instr} :
    decode p = .ok i ↔ ∃ rest, decodeFront p.port p.bytes = .ok (i, rest) ∧ mayFollow p.port rest = true := by
  unfold decode
  cases h : decodeFront p.port p.bytes with
  | error e => simp
  | ok r =>
    obtain ⟨j, rest⟩ := r
    by_cases hm : mayFollow p.port rest = true
    · simp only [hm, if_true]
      constructor
      · intro hj
        cases hj
        exact ⟨rest, rfl, hm⟩
      · rintro ⟨rest', hj, -⟩
        cases hj
        rfl
    · simp only [hm]
      constructor
      · intro hj
        cases hj
      · rintro ⟨rest', hj, hr⟩
        cases hj
        exact absurd hr hm

end Sys2Proof
end

