-- ==== Sys2Proof/Laws/Memory.lean ====
section
/-! SUPPORT. The laws of the display's cells: a read after a write, and that every operation on the cells, and every event the display
sees, keeps their canonical form. -/

namespace Sys2Proof.Machine

/-- What a cell reads after a write: the byte at its own address, what it held anywhere else. -/
theorem read_write (m : Memory) (a b : Nat) (v : Byte) :
    Memory.read (Memory.write m a v) b = if b = a then some v else Memory.read m b := by
  simp only [eq_comm (a := b)]
  induction m with
  | nil => simp only [Memory.write, Memory.read]
  | cons c rest ih =>
    unfold Memory.write
    split
    · simp [Memory.read]
    · split
      · rename_i h
        simp only [Memory.read, h]
        split <;> rfl
      · rename_i h
        simp only [Memory.read, ih]
        split
        · rename_i h'
          rw [if_neg (fun e => h (e.trans h'.symm))]
        · rfl

@[simp] theorem read_write_same (m : Memory) (a : Nat) (v : Byte) :
    Memory.read (Memory.write m a v) a = some v := by simp [read_write]

theorem read_write_other (m : Memory) (a b : Nat) (v : Byte) (h : b ≠ a) :
    Memory.read (Memory.write m a v) b = Memory.read m b := by simp [read_write, h]

@[simp] theorem read_nil (a : Nat) : Memory.read [] a = none := rfl

/-- The canonical form, as a rising list of cells above a bound. -/
def wfFrom (a : Nat) (m : Memory) : Prop :=
  Memory.risingFrom a m = true ∧ m.all (fun d => isCell d.1) = true

theorem wf_of_wfFrom {a : Nat} {m : Memory} (h : wfFrom a m) : Memory.wf m = true := by
  cases m with
  | nil => rfl
  | cons c rest =>
    obtain ⟨h1, h2⟩ := h
    simp only [Memory.risingFrom, List.all_cons, Bool.and_eq_true] at h1 h2
    simp only [Memory.wf, h1, h2, Bool.and_self]

theorem isCell_pos {a : Nat} (h : isCell a = true) : 0 < a := by
  simp [isCell] at h; omega

theorem wfFrom_of_wf {m : Memory} (h : Memory.wf m = true) : wfFrom 0 m := by
  cases m with
  | nil => exact ⟨rfl, rfl⟩
  | cons c rest =>
    simp only [Memory.wf, Bool.and_eq_true] at h
    simp only [wfFrom, Memory.risingFrom, List.all_cons, Bool.and_eq_true, decide_eq_true_eq]
    exact ⟨⟨isCell_pos h.1.1, h.1.2⟩, h.1.1, h.2⟩

theorem wfFrom_write {m : Memory} {a : Nat} (v : Byte) (ha : isCell a = true) :
    ∀ lo, lo < a → wfFrom lo m → wfFrom lo (Memory.write m a v) := by
  induction m with
  | nil => intro lo hlo _; exact ⟨by simp [Memory.write, Memory.risingFrom, hlo], by simp [Memory.write, ha]⟩
  | cons c rest ih =>
    rintro lo hlo ⟨h1, h2⟩
    simp only [Memory.risingFrom, List.all_cons, Bool.and_eq_true, decide_eq_true_eq] at h1 h2
    unfold Memory.write
    by_cases l1 : a < c.1
    · simp only [l1, ite_true, wfFrom, Memory.risingFrom, List.all_cons, Bool.and_eq_true, decide_eq_true_eq]
      exact ⟨⟨hlo, trivial, h1.2⟩, ha, h2⟩
    · by_cases l2 : a = c.1
      · subst l2
        simp only [lt_irrefl, ite_false, ite_true, wfFrom, Memory.risingFrom, List.all_cons, Bool.and_eq_true,
          decide_eq_true_eq]
        exact ⟨h1, h2⟩
      · obtain ⟨r1, r2⟩ := ih c.1 (by omega) ⟨h1.2, h2.2⟩
        simp only [l1, ite_false, l2, wfFrom, Memory.risingFrom, List.all_cons, Bool.and_eq_true,
          decide_eq_true_eq]
        exact ⟨⟨h1.1, r1⟩, h2.1, r2⟩

/-- A write to a cell keeps the canonical form. -/
theorem wf_write {m : Memory} {a : Nat} (v : Byte) (ha : isCell a = true) (h : Memory.wf m = true) :
    Memory.wf (Memory.write m a v) = true :=
  wf_of_wfFrom (wfFrom_write v ha 0 (isCell_pos ha) (wfFrom_of_wf h))

theorem wf_nil : Memory.wf [] = true := rfl

theorem wf_blankCells : Memory.wf blankCells = true := by decide

/-- Reset's memory is in canonical form. -/
theorem wf_reset : Memory.wf State.reset.display.cells = true := rfl

theorem isCell_cellAddress (row : LineSel) {col : Nat} (h : col < 16) : isCell (cellAddress row col) = true := by
  cases row
  · have : 128 + col < 144 := by omega
    simp [isCell, cellAddress, rowBase, this]
  · have : 192 + col < 208 := by omega
    simp [isCell, cellAddress, rowBase, this]

/-! What the display does keeps the form. -/

theorem wf_forget (d : Display) : Memory.wf d.forget.cells = true := rfl

theorem wf_takeByte (rs : Bool) (v : Byte) (d : Display) (h : Memory.wf d.cells = true) :
    Memory.wf (Display.takeByte rs v d).cells = true := by
  unfold Display.takeByte
  split
  · unfold Display.takeData
    split
    · exact wf_nil
    · split
      · rename_i hc
        exact wf_write v (isCell_cellAddress _ hc) h
      · exact wf_nil
  · unfold Display.takeCommand
    split; · exact h
    split; · exact h
    split; · exact wf_blankCells
    split; · exact h
    exact wf_nil

theorem wf_pairNibble (rs : Bool) (n : Nibble) (d : Display) (h : Memory.wf d.cells = true) :
    Memory.wf (d.pairNibble rs n).cells = true := by
  unfold Display.pairNibble
  split
  · exact wf_nil
  · exact h
  · split
    · exact wf_takeByte _ _ _ h
    · exact wf_nil

theorem wf_latchLines (lv : Levels) (d : Display) (h : Memory.wf d.cells = true) :
    Memory.wf (Display.latchLines lv d).cells = true := by
  unfold Display.latchLines
  split
  · unfold Display.latch
    split <;> exact wf_pairNibble _ _ _ h
  · exact wf_nil

/-- Every event the display sees keeps the canonical form of its cells. -/
theorem wf_observe (lv : Levels) (ev : Event) (d : Display) (h : Memory.wf d.cells = true) :
    Memory.wf (d.observe lv ev).cells = true := by
  have hEnable : ∀ v, Memory.wf (d.seeEnable v).cells = true := by
    intro v; unfold Display.seeEnable; split <;> first | exact h | exact wf_nil
  have hLine : Memory.wf d.seeLine.cells = true := by
    unfold Display.seeLine; split <;> first | exact h | exact wf_nil
  have hPulse : Memory.wf d.seePulse.cells = true := by
    unfold Display.seePulse; split <;> first | exact h | exact wf_nil
  have hSettle : Memory.wf (d.seeSettle lv).cells = true := by
    unfold Display.seeSettle
    split
    · exact h
    · exact h
    · exact wf_nil
    · exact wf_nil
    · exact wf_latchLines _ _ h
  unfold Display.observe
  split <;> first | exact h | exact hEnable _ | exact hLine | exact hPulse | exact hSettle | exact wf_nil

end Sys2Proof.Machine
end

