-- ==== Sys2Proof/Laws/State.lean ====
section
/-! SUPPORT. One lemma for each field of State and each update of it: no later proof unfolds a record update. -/

namespace Sys2Proof.Machine

@[simp] theorem emit_lcdst (ev : Event) (s : State) : (emit ev s).lcdst = s.lcdst := rfl
@[simp] theorem emit_lvl (ev : Event) (s : State) : (emit ev s).lvl = s.lvl := rfl
@[simp] theorem emit_cfg (ev : Event) (s : State) : (emit ev s).cfg = s.cfg := rfl
@[simp] theorem emit_seq (ev : Event) (s : State) : (emit ev s).seq = s.seq := rfl
@[simp] theorem emit_locals (ev : Event) (s : State) : (emit ev s).locals = s.locals := rfl
@[simp] theorem emit_trace (ev : Event) (s : State) : (emit ev s).trace = s.trace ++ [ev] := rfl
@[simp] theorem emit_responses (ev : Event) (s : State) : (emit ev s).responses = s.responses := rfl
@[simp] theorem emit_inbox (ev : Event) (s : State) : (emit ev s).inbox = s.inbox := rfl
@[simp] theorem emit_bus (ev : Event) (s : State) : (emit ev s).bus = s.bus := rfl
@[simp] theorem emit_pins (ev : Event) (s : State) : (emit ev s).pins = s.pins := rfl
@[simp] theorem emit_display (ev : Event) (s : State) : (emit ev s).display = s.display.observe s.lvl ev := rfl

@[simp] theorem answer_lcdst (r : Response) (s : State) : (answer r s).lcdst = s.lcdst := rfl
@[simp] theorem answer_lvl (r : Response) (s : State) : (answer r s).lvl = s.lvl := rfl
@[simp] theorem answer_cfg (r : Response) (s : State) : (answer r s).cfg = s.cfg := rfl
@[simp] theorem answer_seq (r : Response) (s : State) : (answer r s).seq = .idle := rfl
@[simp] theorem answer_locals (r : Response) (s : State) : (answer r s).locals = {} := rfl
@[simp] theorem answer_trace (r : Response) (s : State) : (answer r s).trace = s.trace := rfl
@[simp] theorem answer_responses (r : Response) (s : State) : (answer r s).responses = s.responses ++ [r] := rfl
@[simp] theorem answer_inbox (r : Response) (s : State) : (answer r s).inbox = s.inbox := rfl
@[simp] theorem answer_bus (r : Response) (s : State) : (answer r s).bus = s.bus := rfl
@[simp] theorem answer_pins (r : Response) (s : State) : (answer r s).pins = s.pins := rfl
@[simp] theorem answer_display (r : Response) (s : State) : (answer r s).display = s.display := rfl

@[simp] theorem finish_lcdst (s : State) : (finish s).lcdst = s.lcdst := rfl
@[simp] theorem finish_lvl (s : State) : (finish s).lvl = s.lvl := rfl
@[simp] theorem finish_cfg (s : State) : (finish s).cfg = s.cfg := rfl
@[simp] theorem finish_seq (s : State) : (finish s).seq = .idle := rfl
@[simp] theorem finish_locals (s : State) : (finish s).locals = {} := rfl
@[simp] theorem finish_trace (s : State) : (finish s).trace = s.trace := rfl
@[simp] theorem finish_responses (s : State) : (finish s).responses = s.responses := rfl
@[simp] theorem finish_inbox (s : State) : (finish s).inbox = s.inbox := rfl
@[simp] theorem finish_bus (s : State) : (finish s).bus = s.bus := rfl
@[simp] theorem finish_pins (s : State) : (finish s).pins = s.pins := rfl
@[simp] theorem finish_display (s : State) : (finish s).display = s.display := rfl

@[simp] theorem raise_lcdst (f : Failure) (s : State) : (raise f s).lcdst = lcdstAfterFailure f s.lcdst := rfl
@[simp] theorem raise_lvl (f : Failure) (s : State) : (raise f s).lvl = s.lvl := rfl
@[simp] theorem raise_cfg (f : Failure) (s : State) : (raise f s).cfg = s.cfg := rfl
@[simp] theorem raise_seq (f : Failure) (s : State) : (raise f s).seq = .idle := rfl
@[simp] theorem raise_locals (f : Failure) (s : State) : (raise f s).locals = {} := rfl
@[simp] theorem raise_trace (f : Failure) (s : State) : (raise f s).trace = s.trace := rfl
@[simp] theorem raise_responses (f : Failure) (s : State) : (raise f s).responses = s.responses ++ [.failed f] := rfl
@[simp] theorem raise_inbox (f : Failure) (s : State) : (raise f s).inbox = s.inbox := rfl
@[simp] theorem raise_bus (f : Failure) (s : State) : (raise f s).bus = s.bus := rfl
@[simp] theorem raise_pins (f : Failure) (s : State) : (raise f s).pins = s.pins := rfl
@[simp] theorem raise_display (f : Failure) (s : State) : (raise f s).display = s.display := rfl

@[simp] theorem pinSetDone_lcdst (l : Line) (v : Level) (s : State) : (pinSetDone l v s).lcdst = s.lcdst := rfl
@[simp] theorem pinSetDone_lvl (l : Line) (v : Level) (s : State) : (pinSetDone l v s).lvl = s.lvl.put l (driven v) := rfl
@[simp] theorem pinSetDone_cfg (l : Line) (v : Level) (s : State) : (pinSetDone l v s).cfg = s.cfg := rfl
@[simp] theorem pinSetDone_seq (l : Line) (v : Level) (s : State) : (pinSetDone l v s).seq = s.seq := rfl
@[simp] theorem pinSetDone_locals (l : Line) (v : Level) (s : State) : (pinSetDone l v s).locals = s.locals := rfl
@[simp] theorem pinSetDone_trace (l : Line) (v : Level) (s : State) : (pinSetDone l v s).trace = s.trace ++ [.set l v] := rfl
@[simp] theorem pinSetDone_responses (l : Line) (v : Level) (s : State) : (pinSetDone l v s).responses = s.responses := rfl
@[simp] theorem pinSetDone_inbox (l : Line) (v : Level) (s : State) : (pinSetDone l v s).inbox = s.inbox := rfl
@[simp] theorem pinSetDone_bus (l : Line) (v : Level) (s : State) : (pinSetDone l v s).bus = s.bus := rfl
@[simp] theorem pinSetDone_pins (l : Line) (v : Level) (s : State) : (pinSetDone l v s).pins = s.pins.skip 1 := rfl
@[simp] theorem pinSetDone_display (l : Line) (v : Level) (s : State) : (pinSetDone l v s).display = s.display.observe (s.lvl.put l (driven v)) (.set l v) := rfl

@[simp] theorem pinSetFailed_lcdst (l : Line) (v : Level) (s : State) : (pinSetFailed l v s).lcdst = s.lcdst := rfl
@[simp] theorem pinSetFailed_lvl (l : Line) (v : Level) (s : State) : (pinSetFailed l v s).lvl = s.lvl.put l .unknown := rfl
@[simp] theorem pinSetFailed_cfg (l : Line) (v : Level) (s : State) : (pinSetFailed l v s).cfg = s.cfg := rfl
@[simp] theorem pinSetFailed_seq (l : Line) (v : Level) (s : State) : (pinSetFailed l v s).seq = s.seq := rfl
@[simp] theorem pinSetFailed_locals (l : Line) (v : Level) (s : State) : (pinSetFailed l v s).locals = s.locals := rfl
@[simp] theorem pinSetFailed_trace (l : Line) (v : Level) (s : State) : (pinSetFailed l v s).trace = s.trace ++ [.setFail l v] := rfl
@[simp] theorem pinSetFailed_responses (l : Line) (v : Level) (s : State) : (pinSetFailed l v s).responses = s.responses := rfl
@[simp] theorem pinSetFailed_inbox (l : Line) (v : Level) (s : State) : (pinSetFailed l v s).inbox = s.inbox := rfl
@[simp] theorem pinSetFailed_bus (l : Line) (v : Level) (s : State) : (pinSetFailed l v s).bus = s.bus := rfl
@[simp] theorem pinSetFailed_pins (l : Line) (v : Level) (s : State) : (pinSetFailed l v s).pins = s.pins.skip 1 := rfl
@[simp] theorem pinSetFailed_display (l : Line) (v : Level) (s : State) : (pinSetFailed l v s).display = s.display.observe (s.lvl.put l .unknown) (.setFail l v) := rfl

@[simp] theorem busDone_lcdst (tx rx : Frame) (s : State) : (busDone tx rx s).lcdst = s.lcdst := rfl
@[simp] theorem busDone_lvl (tx rx : Frame) (s : State) : (busDone tx rx s).lvl = s.lvl := rfl
@[simp] theorem busDone_cfg (tx rx : Frame) (s : State) : (busDone tx rx s).cfg = s.cfg := rfl
@[simp] theorem busDone_seq (tx rx : Frame) (s : State) : (busDone tx rx s).seq = s.seq := rfl
@[simp] theorem busDone_locals (tx rx : Frame) (s : State) : (busDone tx rx s).locals = { s.locals with rxf := some rx } := rfl
@[simp] theorem busDone_trace (tx rx : Frame) (s : State) : (busDone tx rx s).trace = s.trace ++ [.xfer tx rx] := rfl
@[simp] theorem busDone_responses (tx rx : Frame) (s : State) : (busDone tx rx s).responses = s.responses := rfl
@[simp] theorem busDone_inbox (tx rx : Frame) (s : State) : (busDone tx rx s).inbox = s.inbox := rfl
@[simp] theorem busDone_bus (tx rx : Frame) (s : State) : (busDone tx rx s).bus = s.bus.skip 1 := rfl
@[simp] theorem busDone_pins (tx rx : Frame) (s : State) : (busDone tx rx s).pins = s.pins := rfl
@[simp] theorem busDone_display (tx rx : Frame) (s : State) : (busDone tx rx s).display = s.display := rfl

@[simp] theorem busFailed_lcdst (tx : Frame) (s : State) : (busFailed tx s).lcdst = s.lcdst := rfl
@[simp] theorem busFailed_lvl (tx : Frame) (s : State) : (busFailed tx s).lvl = s.lvl := rfl
@[simp] theorem busFailed_cfg (tx : Frame) (s : State) : (busFailed tx s).cfg = s.cfg := rfl
@[simp] theorem busFailed_seq (tx : Frame) (s : State) : (busFailed tx s).seq = .idle := rfl
@[simp] theorem busFailed_locals (tx : Frame) (s : State) : (busFailed tx s).locals = {} := rfl
@[simp] theorem busFailed_trace (tx : Frame) (s : State) : (busFailed tx s).trace = s.trace ++ [.xferFail tx] := rfl
@[simp] theorem busFailed_responses (tx : Frame) (s : State) : (busFailed tx s).responses = s.responses ++ [.failed .busFailure] := rfl
@[simp] theorem busFailed_inbox (tx : Frame) (s : State) : (busFailed tx s).inbox = s.inbox := rfl
@[simp] theorem busFailed_bus (tx : Frame) (s : State) : (busFailed tx s).bus = s.bus.skip 1 := rfl
@[simp] theorem busFailed_pins (tx : Frame) (s : State) : (busFailed tx s).pins = s.pins := rfl
@[simp] theorem busFailed_display (tx : Frame) (s : State) : (busFailed tx s).display = s.display := rfl

@[simp] theorem beginOperation_lcdst (op : Instr) (s : State) : (beginOperation op s).lcdst = s.lcdst := rfl
@[simp] theorem beginOperation_lvl (op : Instr) (s : State) : (beginOperation op s).lvl = s.lvl := rfl
@[simp] theorem beginOperation_cfg (op : Instr) (s : State) : (beginOperation op s).cfg = s.cfg := rfl
@[simp] theorem beginOperation_seq (op : Instr) (s : State) : (beginOperation op s).seq = .busy op 0 := rfl
@[simp] theorem beginOperation_locals (op : Instr) (s : State) : (beginOperation op s).locals = firstLocals op := rfl
@[simp] theorem beginOperation_trace (op : Instr) (s : State) : (beginOperation op s).trace = s.trace := rfl
@[simp] theorem beginOperation_responses (op : Instr) (s : State) : (beginOperation op s).responses = s.responses := rfl
@[simp] theorem beginOperation_inbox (op : Instr) (s : State) : (beginOperation op s).inbox = s.inbox := rfl
@[simp] theorem beginOperation_bus (op : Instr) (s : State) : (beginOperation op s).bus = s.bus := rfl
@[simp] theorem beginOperation_pins (op : Instr) (s : State) : (beginOperation op s).pins = s.pins := rfl
@[simp] theorem beginOperation_display (op : Instr) (s : State) : (beginOperation op s).display = s.display := rfl

@[simp] theorem writeLocals_lcdst (ws : List LocalWrite) (s : State) : (writeLocals ws s).lcdst = s.lcdst := rfl
@[simp] theorem writeLocals_lvl (ws : List LocalWrite) (s : State) : (writeLocals ws s).lvl = s.lvl := rfl
@[simp] theorem writeLocals_cfg (ws : List LocalWrite) (s : State) : (writeLocals ws s).cfg = s.cfg := rfl
@[simp] theorem writeLocals_seq (ws : List LocalWrite) (s : State) : (writeLocals ws s).seq = s.seq := rfl
@[simp] theorem writeLocals_locals (ws : List LocalWrite) (s : State) : (writeLocals ws s).locals = ws.foldl (fun l w => writeLocal w l) s.locals := rfl
@[simp] theorem writeLocals_trace (ws : List LocalWrite) (s : State) : (writeLocals ws s).trace = s.trace := rfl
@[simp] theorem writeLocals_responses (ws : List LocalWrite) (s : State) : (writeLocals ws s).responses = s.responses := rfl
@[simp] theorem writeLocals_inbox (ws : List LocalWrite) (s : State) : (writeLocals ws s).inbox = s.inbox := rfl
@[simp] theorem writeLocals_bus (ws : List LocalWrite) (s : State) : (writeLocals ws s).bus = s.bus := rfl
@[simp] theorem writeLocals_pins (ws : List LocalWrite) (s : State) : (writeLocals ws s).pins = s.pins := rfl
@[simp] theorem writeLocals_display (ws : List LocalWrite) (s : State) : (writeLocals ws s).display = s.display := rfl

@[simp] theorem answerTemperature_lcdst (tq : Int) (s : State) : (answerTemperature tq s).lcdst = s.lcdst := rfl
@[simp] theorem answerTemperature_lvl (tq : Int) (s : State) : (answerTemperature tq s).lvl = s.lvl := rfl
@[simp] theorem answerTemperature_cfg (tq : Int) (s : State) : (answerTemperature tq s).cfg = s.cfg := rfl
@[simp] theorem answerTemperature_seq (tq : Int) (s : State) : (answerTemperature tq s).seq = .idle := rfl
@[simp] theorem answerTemperature_locals (tq : Int) (s : State) : (answerTemperature tq s).locals = {} := rfl
@[simp] theorem answerTemperature_trace (tq : Int) (s : State) : (answerTemperature tq s).trace = s.trace := rfl
@[simp] theorem answerTemperature_responses (tq : Int) (s : State) : (answerTemperature tq s).responses = s.responses ++ [.ok (.temperature tq)] := rfl
@[simp] theorem answerTemperature_inbox (tq : Int) (s : State) : (answerTemperature tq s).inbox = s.inbox := rfl
@[simp] theorem answerTemperature_bus (tq : Int) (s : State) : (answerTemperature tq s).bus = s.bus := rfl
@[simp] theorem answerTemperature_pins (tq : Int) (s : State) : (answerTemperature tq s).pins = s.pins := rfl
@[simp] theorem answerTemperature_display (tq : Int) (s : State) : (answerTemperature tq s).display = s.display := rfl

@[simp] theorem placePacket_lcdst (p : Packet) (s : State) : (placePacket p s).lcdst = s.lcdst := rfl
@[simp] theorem placePacket_lvl (p : Packet) (s : State) : (placePacket p s).lvl = s.lvl := rfl
@[simp] theorem placePacket_cfg (p : Packet) (s : State) : (placePacket p s).cfg = s.cfg := rfl
@[simp] theorem placePacket_seq (p : Packet) (s : State) : (placePacket p s).seq = .idle := rfl
@[simp] theorem placePacket_locals (p : Packet) (s : State) : (placePacket p s).locals = s.locals := rfl
@[simp] theorem placePacket_trace (p : Packet) (s : State) : (placePacket p s).trace = s.trace := rfl
@[simp] theorem placePacket_responses (p : Packet) (s : State) : (placePacket p s).responses = s.responses := rfl
@[simp] theorem placePacket_inbox (p : Packet) (s : State) : (placePacket p s).inbox = p :: s.inbox := rfl
@[simp] theorem placePacket_bus (p : Packet) (s : State) : (placePacket p s).bus = s.bus := rfl
@[simp] theorem placePacket_pins (p : Packet) (s : State) : (placePacket p s).pins = s.pins := rfl
@[simp] theorem placePacket_display (p : Packet) (s : State) : (placePacket p s).display = s.display := rfl

end Sys2Proof.Machine
end

