-- ==== Sys2Proof/Laws/Ops.lean ====
section
/-! SUPPORT. For each shared operation, once, everything it can do. -/

namespace Sys2Proof.Machine

open Sys2Proof.Safety

/-! Scripts. -/

@[simp] theorem skip_zero {α : Type} (o : Script α) : o.skip 0 = o := rfl

@[simp] theorem skip_skip {α : Type} (m n : Nat) (o : Script α) : (o.skip m).skip n = o.skip (m + n) := by
  simp [Script.skip]

theorem pinsAllow_succ (n : Nat) (o : Script PinAnswer) :
    pinsAllow (n + 1) o = true ↔ o.head = .ok ∧ pinsAllow n (o.skip 1) = true := by
  simp [pinsAllow]

/-- Allowed pin writes split at any point. -/
theorem pinsAllow_add (m n : Nat) (o : Script PinAnswer) :
    pinsAllow (m + n) o = true ↔ pinsAllow m o = true ∧ pinsAllow n (o.skip m) = true := by
  induction m generalizing o with
  | zero => simp [pinsAllow]
  | succ m ih => simp only [Nat.succ_add, pinsAllow_succ, ih, skip_skip, Nat.add_comm 1 m, and_assoc]

theorem pinsAllow_of_le {m n : Nat} {o : Script PinAnswer} (h : m ≤ n) (hn : pinsAllow n o = true) :
    pinsAllow m o = true := by
  obtain ⟨d, rfl⟩ := Nat.exists_eq_add_of_le h
  exact ((pinsAllow_add m d o).1 hn).1

/-! Lines. -/

@[simp] theorem get_put (lv : Levels) (l m : Line) (x : LineState) :
    (lv.put l x).get m = if m = l then x else lv.get m := by
  cases l <;> cases m <;> rfl

theorem driven_ne_unknown (v : Level) : driven v ≠ .unknown := by cases v <;> simp [driven]

/-! `whenIdle`. -/

theorem whenIdle_of_idle {s : State} (t : State) (h : s.seq = .idle) : whenIdle s t = .next t := by
  simp [whenIdle, h]

theorem whenIdle_of_busy {s : State} {op : Instr} {k : Nat} (t : State) (h : s.seq = .busy op k) :
    whenIdle s t = .refused .overlappingRequest := by
  simp [whenIdle, h]

theorem whenIdle_next {s t u : State} : whenIdle s t = .next u ↔ s.seq = .idle ∧ t = u := by
  unfold whenIdle; split <;> simp_all

theorem whenIdle_ne_fault (s t : State) (f : Fault) : whenIdle s t ≠ .fault f := by
  unfold whenIdle; split <;> simp

/-! The primitives: everything each can do. -/

theorem pinSet_cases (l : Line) (v : Level) (s : State) :
    (s.pins.head = .ok ∧ pinSet l v s = .done (pinSetDone l v s)) ∨
      (s.pins.head = .fails ∧ pinSet l v s = .ended (raise .pinFailure (pinSetFailed l v s))) := by
  unfold pinSet; split <;> simp_all

theorem delayFor_eq (k : DelayKind) (s : State) : delayFor k s = .done (emit (.dly k) s) := rfl

theorem busTransfer_cases (tx : Frame) (s : State) :
    (∃ b0 b1 b2, s.bus.head = .returns [b0, b1, b2] ∧ busTransfer tx s = .done (busDone tx ⟨b0, b1, b2⟩ s)) ∨
      ((s.bus.head = .fails ∨ ∃ rx, s.bus.head = .returns rx ∧ rx.length ≠ 3) ∧
        busTransfer tx s = .ended (busFailed tx s)) ∨
      (s.bus.head = .never ∧ busTransfer tx s = .hung s) := by
  unfold busTransfer
  split
  · rename_i b0 b1 b2 h; exact .inl ⟨b0, b1, b2, h, rfl⟩
  · rename_i rx hne h
    refine .inr (.inl ⟨.inr ⟨rx, h, ?_⟩, rfl⟩)
    intro hl
    match rx, hl with
    | [b0, b1, b2], _ => exact hne b0 b1 b2 rfl
  · rename_i h; exact .inr (.inl ⟨.inl h, rfl⟩)
  · rename_i h; exact .inr (.inr ⟨h, rfl⟩)

theorem busTransfer_returns {s : State} {b0 b1 b2 : Byte} (tx : Frame) (h : s.bus.head = .returns [b0, b1, b2]) :
    busTransfer tx s = .done (busDone tx ⟨b0, b1, b2⟩ s) := by
  unfold busTransfer; rw [h]

theorem busTransfer_fails {s : State} (tx : Frame)
    (h : s.bus.head = .fails ∨ ∃ rx, s.bus.head = .returns rx ∧ rx.length ≠ 3) :
    busTransfer tx s = .ended (busFailed tx s) := by
  rcases busTransfer_cases tx s with ⟨x, y, z, e, _⟩ | ⟨_, e⟩ | ⟨e, _⟩
  · rcases h with h | ⟨rx, h, hl⟩
    · rw [e] at h; exact absurd h (by simp)
    · rw [e] at h; injection h with h; subst h; exact absurd rfl hl
  · exact e
  · rcases h with h | ⟨rx, h, _⟩ <;> rw [e] at h <;> exact absurd h (by simp)

theorem busTransfer_never {s : State} (tx : Frame) (h : s.bus.head = .never) : busTransfer tx s = .hung s := by
  unfold busTransfer; rw [h]

/-! The end of an operation. -/

/-- Between operations nothing of an operation is left (rules R14, R15): whatever the ending, SEQ is Idle and the working values are empty. -/
theorem conclude_cases (op : Instr) (s : State) :
    (conclude op s).seq = .idle ∧ (conclude op s).locals = {} ∧ (conclude op s).lvl = s.lvl ∧
      (conclude op s).cfg = s.cfg ∧ (conclude op s).trace = s.trace ∧ (conclude op s).inbox = s.inbox ∧
      (conclude op s).bus = s.bus ∧ (conclude op s).pins = s.pins ∧ (conclude op s).display = s.display := by
  unfold conclude answerSample
  split <;> (try split) <;> exact ⟨rfl, rfl, rfl, rfl, rfl, rfl, rfl, rfl, rfl⟩

/-! One event. -/

/-- A step that calls no bus. -/
def noTransfer (m : Micro) : Bool :=
  match m.prim with
  | .transfer _ => false
  | .pin _ _ => true
  | .delay _ => true

/-- The event of a step that completes, where it calls no bus. -/
def eventOf (m : Micro) : Event :=
  match m.prim with
  | .transfer tx => .xferFail tx
  | .pin l v => .set l v
  | .delay k => .dly k

/-- What a completed step without a bus call leaves: the event, the line, the answer taken, what the display saw, and the working values. -/
theorem perform_done (m : Micro) (s : State) (hm : noTransfer m = true)
    (hp : pinsAllow (pinWrites [eventOf m]) s.pins = true) :
    perform m s = .done { s with
      trace := s.trace ++ [eventOf m]
      lvl := linesStep s.lvl (eventOf m)
      pins := s.pins.skip (pinWrites [eventOf m])
      display := s.display.observe (linesStep s.lvl (eventOf m)) (eventOf m)
      locals := m.writes.foldl (fun l w => writeLocal w l) s.locals } := by
  obtain ⟨ws, p⟩ := m
  cases p with
  | transfer tx => simp [noTransfer] at hm
  | pin l v =>
    have h : s.pins.head = .ok := by simpa [eventOf, pinWrites, pinsAllow] using hp
    have h' : (writeLocals ws s).pins.head = .ok := h
    simp only [perform, callPrim, pinSet, h']
    rfl
  | delay k => rfl

/-- What a failed pin write leaves. -/
theorem perform_failed (ws : List LocalWrite) (l : Line) (v : Level) (s : State) (h : s.pins.head = .fails) :
    perform ⟨ws, .pin l v⟩ s = .ended { s with
      lcdst := .uninitialized
      trace := s.trace ++ [.setFail l v]
      responses := s.responses ++ [.failed .pinFailure]
      lvl := s.lvl.put l .unknown
      pins := s.pins.skip 1
      display := Display.unknown
      seq := .idle
      locals := {} } := by
  have h' : (writeLocals ws s).pins.head = .fails := h
  simp only [perform, callPrim, pinSet, h']
  rfl

/-- The one exchange of an operation, as a step. -/
theorem perform_transfer (tx : Frame) (s : State) : perform (plain (.transfer tx)) s = busTransfer tx s := rfl

/-! A list of events. -/

theorem pinWrites_cons (ev : Event) (evs : List Event) : pinWrites (ev :: evs) = pinWrites [ev] + pinWrites evs := by
  simp only [pinWrites, List.countP_cons, List.countP_nil]; omega

theorem pinWrites_append (a b : List Event) : pinWrites (a ++ b) = pinWrites a + pinWrites b := by
  simp [pinWrites]

/-- Everything a list of steps without a bus call does when every pin write is allowed. -/
theorem runMicros_success (op : Instr) (k : Nat) (ms : List Micro) (s : State)
    (hm : ms.all noTransfer = true) (hp : pinsAllow (pinWrites (ms.map eventOf)) s.pins = true) :
    ∃ q l, runMicros op k ms s = conclude op { s with
      trace := s.trace ++ ms.map eventOf
      lvl := linesAfter s.lvl (ms.map eventOf)
      pins := s.pins.skip (pinWrites (ms.map eventOf))
      display := watch s.lvl (ms.map eventOf) s.display
      seq := q
      locals := l } := by
  induction ms generalizing k s with
  | nil => exact ⟨s.seq, s.locals, by simp [runMicros, linesAfter, watch, pinWrites]⟩
  | cons m ms ih =>
    simp only [List.all_cons, Bool.and_eq_true] at hm
    simp only [List.map_cons] at hp ⊢
    rw [pinWrites_cons, pinsAllow_add] at hp
    rw [runMicros, perform_done m s hm.1 hp.1]
    obtain ⟨q, l, e⟩ := ih (k + 1) { s with
      trace := s.trace ++ [eventOf m]
      lvl := linesStep s.lvl (eventOf m)
      pins := s.pins.skip (pinWrites [eventOf m])
      display := s.display.observe (linesStep s.lvl (eventOf m)) (eventOf m)
      locals := m.writes.foldl (fun l w => writeLocal w l) s.locals
      seq := .busy op (k + 1) } hm.2 hp.2
    refine ⟨q, l, ?_⟩
    simp only [e, skip_skip, ← pinWrites_cons, List.append_assoc, List.singleton_append]
    rfl

/-- Everything a list of steps without a bus call does when a pin write of it is the first to fail. -/
theorem runMicros_failure (op : Instr) (k : Nat) (ms : List Micro) (s : State) (before after : List Event)
    (l : Line) (v : Level) (hm : ms.all noTransfer = true)
    (he : ms.map eventOf = before ++ .set l v :: after)
    (hp : pinsAllow (pinWrites before) s.pins = true) (hf : (s.pins.skip (pinWrites before)).head = .fails) :
    runMicros op k ms s = { s with
      lcdst := .uninitialized
      trace := s.trace ++ before ++ [.setFail l v]
      responses := s.responses ++ [.failed .pinFailure]
      lvl := (linesAfter s.lvl before).put l .unknown
      pins := s.pins.skip (pinWrites before + 1)
      display := Display.unknown
      seq := .idle
      locals := {} } := by
  induction ms generalizing k s before with
  | nil => simp at he
  | cons m ms ih =>
    simp only [List.all_cons, Bool.and_eq_true] at hm
    cases before with
    | nil =>
      simp only [List.map_cons, List.nil_append, List.cons.injEq] at he
      obtain ⟨ws, p⟩ := m
      have hp' : p = .pin l v := by cases p <;> simp_all [eventOf]
      subst hp'
      have h : s.pins.head = .fails := hf
      rw [runMicros, perform_failed ws l v s h]
      simp [linesAfter, pinWrites]
    | cons ev before =>
      simp only [List.map_cons, List.cons_append, List.cons.injEq] at he
      obtain ⟨rfl, he⟩ := he
      rw [pinWrites_cons, pinsAllow_add] at hp
      rw [pinWrites_cons, ← skip_skip] at hf
      rw [runMicros, perform_done m s hm.1 hp.1]
      simp only
      rw [ih (k + 1) _ before hm.2 he hp.2 hf, pinWrites_cons (eventOf m) before]
      simp only [skip_skip, List.append_assoc, List.singleton_append, Nat.add_assoc]
      rfl

/-! One event of the operation in progress, and one step. -/

/-- Everything `resume` can do. -/
theorem resume_cases (op : Instr) (k : Nat) (s : State) :
    ((plan op).length ≤ k ∧ resume op k s = .fault .sequencerOutOfRange) ∨
      ∃ m, (plan op)[k]? = some m ∧
        ((∃ s', perform m s = .done s' ∧ k + 1 = (plan op).length ∧
            resume op k s = .next (conclude op { s' with seq := .busy op (k + 1) })) ∨
          (∃ s', perform m s = .done s' ∧ k + 1 < (plan op).length ∧
            resume op k s = .next { s' with seq := .busy op (k + 1) }) ∨
          (∃ s', perform m s = .ended s' ∧ resume op k s = .next s') ∨
          ∃ s', perform m s = .hung s' ∧ resume op k s = .next s') := by
  unfold resume
  split
  · rename_i h; exact .inl ⟨List.getElem?_eq_none_iff.1 h, rfl⟩
  · rename_i m h
    refine .inr ⟨m, h, ?_⟩
    have hk : k < (plan op).length := (List.getElem?_eq_some_iff.1 h).1
    split
    · rename_i s' hs
      split
      · rename_i e; exact .inl ⟨s', hs, e, rfl⟩
      · rename_i e; exact .inr (.inl ⟨s', hs, by omega, rfl⟩)
    · rename_i s' hs; exact .inr (.inr (.inl ⟨s', hs, rfl⟩))
    · rename_i s' hs; exact .inr (.inr (.inr ⟨s', hs, rfl⟩))

/-- Everything `step` can do. -/
theorem step_cases (s : State) :
    (∃ op k, s.seq = .busy op k ∧ step s = resume op k s) ∨
      (s.seq = .idle ∧ s.inbox = [] ∧ step s = .next s) ∨
      (∃ p rest i, s.seq = .idle ∧ s.inbox = p :: rest ∧ decode p = .ok i ∧
        step s = exec i { s with inbox := rest }) ∨
      ∃ p rest e, s.seq = .idle ∧ s.inbox = p :: rest ∧ decode p = .error e ∧
        step s = .refused (.undecodable e) := by
  unfold step takePacket
  cases hq : s.seq with
  | busy op k => exact .inl ⟨op, k, rfl, rfl⟩
  | idle =>
    cases hi : s.inbox with
    | nil => exact .inr (.inl ⟨rfl, rfl, rfl⟩)
    | cons p rest =>
      cases hd : decode p with
      | ok i => exact .inr (.inr (.inl ⟨p, rest, i, rfl, rfl, hd, by simp [hd]⟩))
      | error e => exact .inr (.inr (.inr ⟨p, rest, e, rfl, rfl, hd, by simp [hd]⟩))

end Sys2Proof.Machine
end

