-- ==== Sys2Proof/Laws/PerInstr.lean ====
section
/-! SUPPORT. The family of statements made per instruction: the encoder's word has the fixed bits of the instruction's row in
spec/opcode_table.json, whatever the operands. -/

namespace Sys2Proof.Laws.RowPattern

/-- The first word of a packet, numbered as its format's patterns are (30_encoding.md R71, R73, R75, R77, R83, R84). -/
def wordOf (p : Packet) : Nat :=
  match p.bytes with
  | [] => 0
  | [b0] => b0.toNat
  | b0 :: b1 :: rest =>
    match p.port with
    | .hostReq => b0.toNat
    | .hostRsp => b0.toNat
    | .nibble => b0.toNat
    | .strobe => b0.toNat
    | .sendByte => b0.toNat + 256 * b1.toNat
    | .lcdByte => b0.toNat + 256 * b1.toNat
    | .adcCmd => 65536 * b0.toNat + 256 * b1.toNat + (rest.headD 0).toNat
    | .adcRsp => 65536 * b0.toNat + 256 * b1.toNat + (rest.headD 0).toNat

/-- "mask" and "match" of each row of spec/opcode_table.json. -/
def row : Instr → Nat × Nat
  | .readChannel _ => (0x7, 0x0)
  | .convert _ _ _ => (0x7, 0x1)
  | .lcdInit => (0x7, 0x2)
  | .lcdClear => (0x7, 0x3)
  | .lcdWriteLine _ _ => (0x7, 0x4)
  | .reservedOpc5 => (0x7, 0x5)
  | .reservedOpc6 => (0x7, 0x6)
  | .reservedOpc7 => (0x7, 0x7)
  | .sendByte _ _ => (0x000, 0x000)
  | .putNibble _ => (0x0, 0x0)
  | .strobe => (0x00, 0x00)
  | .adcCmd _ => (0xFF8FFF, 0x018000)
  | .adcRsp _ => (0x000000, 0x000000)
  | .lcdCmdInit0 => (0x1FF, 0x033)
  | .lcdCmdInit1 => (0x1FF, 0x032)
  | .lcdCmdInit2 => (0x1FF, 0x006)
  | .lcdCmdInit3 => (0x1FF, 0x00C)
  | .lcdCmdInit4 => (0x1FF, 0x028)
  | .lcdCmdClear => (0x1FF, 0x001)
  | .lcdCmdSetLine1 => (0x1FF, 0x080)
  | .lcdCmdSetLine2 => (0x1FF, 0x0C0)
  | .lcdData _ => (0x100, 0x100)
  | .statusOk _ => (0x7, 0x0)
  | .statusInvalidArgument => (0x7, 0x1)
  | .statusBusFailure => (0x7, 0x2)
  | .statusPinFailure => (0x7, 0x3)
  | .statusNotReady => (0x7, 0x4)
  | .reservedStatus5 => (0x7, 0x5)
  | .reservedStatus6 => (0x7, 0x6)
  | .reservedStatus7 => (0x7, 0x7)

/-- The encoder's word shows the fixed bits of the instruction's row. -/
def Statement (i : Instr) : Prop := wordOf (encode i) &&& (row i).1 = (row i).2

/-- The low three bits of a request's or a response's head are its code. -/
theorem head_code (code rest : Nat) (h : code < 8) : (BitVec.ofNat 8 (code + 8 * rest)).toNat &&& 7 = code := by
  have : (7 : Nat) = 2 ^ 3 - 1 := rfl
  rw [this, Nat.and_two_pow_sub_one_eq_mod, BitVec.toNat_ofNat]
  omega

/-- A head of two bytes and what follows it: the word is the head's first byte. -/
theorem wordOf_head (code rest : Nat) (tail : List Byte) (h : code < 8) :
    wordOf ⟨.hostReq, encodeHead code rest ++ tail⟩ &&& 7 = code :=
  head_code code rest h

theorem readChannel (channel : Int) : Statement (.readChannel channel) := by
  have := wordOf_head 0 channel.toNat [] (by omega)
  simpa [Statement, encode, portOf, encodeBytes, row] using this

theorem convert (sample : Sample) (model : SensorModel) (places : Nat) : Statement (.convert sample model places) := by
  have := wordOf_head 1 sample.toNat (encodeModel model ++ encodeNat places) (by omega)
  simpa [Statement, encode, portOf, encodeBytes, row] using this

theorem lcdInit : Statement .lcdInit := rfl

theorem lcdClear : Statement .lcdClear := rfl

/-- A natural number takes at least one byte. -/
theorem encodeNat_ne_nil (n : Nat) : encodeNat n ≠ [] := by
  unfold encodeNat
  cases n with
  | zero => simp [encodeNatFuel]
  | succ m => unfold encodeNatFuel; split <;> simp

theorem lcdWriteLine (text : List Byte) (line : LineSel) : Statement (.lcdWriteLine text line) := by
  have h := head_code 4 (lineSelBit line) (by omega)
  obtain ⟨b, bs, hb⟩ := List.exists_cons_of_ne_nil (encodeNat_ne_nil text.length)
  simp only [Statement, encode, portOf, encodeBytes, row, hb, List.cons_append, wordOf]
  exact h

theorem reservedOpc5 : Statement .reservedOpc5 := rfl
theorem reservedOpc6 : Statement .reservedOpc6 := rfl
theorem reservedOpc7 : Statement .reservedOpc7 := rfl

theorem sendByte (value : Byte) (isData : Bool) : Statement (.sendByte value isData) := by
  simp [Statement, row]

theorem putNibble (n : Nibble) : Statement (.putNibble n) := by simp [Statement, row]

theorem strobe : Statement .strobe := rfl

theorem adcCmd (channel : BitVec 3) : Statement (.adcCmd channel) := by
  have h : ∀ c : Fin 8, wordOf (encode (.adcCmd (BitVec.ofNat 3 c))) &&& 0xFF8FFF = 0x018000 := by decide
  have hc := h ⟨channel.toNat, channel.isLt⟩
  simpa [Statement, row] using hc

theorem adcRsp (response : Frame) : Statement (.adcRsp response) := by simp [Statement, row]

theorem lcdCmdInit0 : Statement .lcdCmdInit0 := rfl
theorem lcdCmdInit1 : Statement .lcdCmdInit1 := rfl
theorem lcdCmdInit2 : Statement .lcdCmdInit2 := rfl
theorem lcdCmdInit3 : Statement .lcdCmdInit3 := rfl
theorem lcdCmdInit4 : Statement .lcdCmdInit4 := rfl
theorem lcdCmdClear : Statement .lcdCmdClear := rfl
theorem lcdCmdSetLine1 : Statement .lcdCmdSetLine1 := rfl
theorem lcdCmdSetLine2 : Statement .lcdCmdSetLine2 := rfl

theorem lcdData (code : Byte) : Statement (.lcdData code) := by
  have h : ∀ c : Fin 256, wordOf (encode (.lcdData (BitVec.ofNat 8 c))) &&& 0x100 = 0x100 := by decide +kernel
  have hc := h ⟨code.toNat, code.isLt⟩
  simpa [Statement, row] using hc

theorem statusOk (value : OkValue) : Statement (.statusOk value) := by
  cases value with
  | none => exact rfl
  | sample v => simp [Statement, encode, portOf, encodeBytes, row, wordOf]
  | temperature tq =>
    obtain ⟨b, bs, hb⟩ := List.exists_cons_of_ne_nil (encodeNat_ne_nil (natOfInt tq))
    simp only [Statement, encode, portOf, encodeBytes, encodeInt, row, hb, wordOf]
    rfl

theorem statusInvalidArgument : Statement .statusInvalidArgument := rfl
theorem statusBusFailure : Statement .statusBusFailure := rfl
theorem statusPinFailure : Statement .statusPinFailure := rfl
theorem statusNotReady : Statement .statusNotReady := rfl
theorem reservedStatus5 : Statement .reservedStatus5 := rfl
theorem reservedStatus6 : Statement .reservedStatus6 := rfl
theorem reservedStatus7 : Statement .reservedStatus7 := rfl

end Sys2Proof.Laws.RowPattern
end

