-- ==== Sys2Proof/Laws/Plans.lean ====
section
/-! SUPPORT. The event lists of the display operations, matched against the spec's own tables (Safety.lean), and what a whole
display operation does. -/

namespace Sys2Proof.Machine

open Sys2Proof.Safety

theorem bv4_cases {P : Nibble → Prop} (h : ∀ k : Fin 16, P (BitVec.ofNat 4 k)) (n : Nibble) : P n := by
  have := h ⟨n.toNat, n.isLt⟩
  simpa using this

/-- PUT_NIBBLE's steps make the events of its row of the table (rule R165). -/
theorem putNibble_events (n : Nibble) : (putNibblePlan n).map eventOf = nibbleEvents n := by
  revert n; exact bv4_cases (by decide)

theorem putNibble_noTransfer (n : Nibble) : (putNibblePlan n).all noTransfer = true := by
  revert n; exact bv4_cases (by decide)

theorem strobe_events : strobePlan.map eventOf = strobeEvents := rfl

theorem withWrites_events (ws : List LocalWrite) (ms : List Micro) :
    (withWrites ws ms).map eventOf = ms.map eventOf := by
  cases ms <;> rfl

theorem withWrites_noTransfer (ws : List LocalWrite) (ms : List Micro) :
    (withWrites ws ms).all noTransfer = ms.all noTransfer := by
  cases ms <;> rfl

theorem highNibble_eq (v : Byte) : highNibble v = BitVec.ofNat 4 (v.toNat / 16) := by
  apply BitVec.eq_of_toNat_eq
  simp [highNibble, Nat.shiftRight_eq_div_pow]

theorem lowNibble_eq (v : Byte) : lowNibble v = BitVec.ofNat 4 (v.toNat % 16) := by
  apply BitVec.eq_of_toNat_eq
  simp [lowNibble]

theorem levelOf_eq (b : Bool) : levelOf b = rsLevel b := rfl

/-- SEND_BYTE's steps make the nineteen events of its table (rule R163). -/
theorem sendByte_events (v : Byte) (isData : Bool) : (sendBytePlan v isData).map eventOf = sendByteEvents v isData := by
  simp only [sendBytePlan, List.map_append, withWrites_events, putNibble_events, strobe_events, highNibble_eq,
    lowNibble_eq]
  rfl

theorem sendByte_noTransfer (v : Byte) (isData : Bool) : (sendBytePlan v isData).all noTransfer = true := by
  simp only [sendBytePlan, List.all_append, withWrites_noTransfer, putNibble_noTransfer]
  rfl

theorem nibbleEvents_counts (n : Nibble) :
    (nibbleEvents n).length = 4 ∧ pinWrites (nibbleEvents n) = 4 ∧ delays (nibbleEvents n) = 0 ∧
      strobes (nibbleEvents n) = 0 := by
  revert n; exact bv4_cases (by decide)

theorem sendByte_pinWrites (v : Byte) (isData : Bool) : pinWrites (sendByteEvents v isData) = 13 := by
  simp only [sendByteEvents, List.cons_append]
  rw [pinWrites_cons]
  simp only [pinWrites_append, (nibbleEvents_counts _).2.1]
  rfl

theorem sendByte_length (v : Byte) (isData : Bool) : (sendByteEvents v isData).length = 19 := by
  simp only [sendByteEvents, List.length_append, List.length_cons, (nibbleEvents_counts _).1]
  rfl

theorem bytesEvents_cons (p : Byte × Bool) (ps : List (Byte × Bool)) :
    bytesEvents (p :: ps) = sendByteEvents p.1 p.2 ++ bytesEvents ps := rfl

theorem bytesEvents_append (ps qs : List (Byte × Bool)) :
    bytesEvents (ps ++ qs) = bytesEvents ps ++ bytesEvents qs := by simp [bytesEvents]

theorem bytesEvents_pinWrites (ps : List (Byte × Bool)) : pinWrites (bytesEvents ps) = 13 * ps.length := by
  induction ps with
  | nil => rfl
  | cons p ps ih => rw [bytesEvents_cons, pinWrites_append, sendByte_pinWrites, ih, List.length_cons]; omega

theorem bytesEvents_length (ps : List (Byte × Bool)) : (bytesEvents ps).length = 19 * ps.length := by
  induction ps with
  | nil => rfl
  | cons p ps ih => rw [bytesEvents_cons, List.length_append, sendByte_length, ih, List.length_cons]; omega

theorem commands_events (bs : List Byte) :
    (commandsPlan bs).map eventOf = bytesEvents (bs.map (fun b => (b, false))) := by
  induction bs with
  | nil => rfl
  | cons b bs ih => simp [commandsPlan, bytesEvents, ← sendByte_events] at ih ⊢; exact ih

theorem data_events (bs : List Byte) : (dataPlan bs).map eventOf = bytesEvents (bs.map (fun b => (b, true))) := by
  induction bs with
  | nil => rfl
  | cons b bs ih => simp [dataPlan, bytesEvents, ← sendByte_events] at ih ⊢; exact ih

theorem commands_noTransfer (bs : List Byte) : (commandsPlan bs).all noTransfer = true := by
  rw [commandsPlan, List.all_flatMap, List.all_eq_true]
  intro b _; exact sendByte_noTransfer b false

theorem data_noTransfer (bs : List Byte) : (dataPlan bs).all noTransfer = true := by
  rw [dataPlan, List.all_flatMap, List.all_eq_true]
  intro b _; exact sendByte_noTransfer b true

/-- LBUF is the padded or cut text (rule R80). -/
theorem lineBuffer_eq (text : List Byte) : lineBuffer text = paddedText text := by
  simp only [lineBuffer, paddedText, Config.lcdCols, Config.padByte, List.take_append, List.take_replicate]
  congr 2
  omega

theorem paddedText_length (text : List Byte) : (paddedText text).length = 16 := by
  simp [paddedText]

/-- A display operation's steps make the events its expansion gives (rule R91). -/
theorem plan_events (i : Instr) (evs : List Event) (h : displayEvents i = some evs) :
    (plan i).map eventOf = evs ∧ (plan i).all noTransfer = true := by
  cases i <;> simp [displayEvents, bytesOf] at h <;> subst h
  case lcdInit => exact ⟨commands_events _, commands_noTransfer _⟩
  case lcdClear => exact ⟨commands_events _, commands_noTransfer _⟩
  case lcdWriteLine text line =>
    refine ⟨?_, ?_⟩
    · simp only [plan, writeLinePlan, List.map_append, commands_events, data_events, lineBuffer_eq, lineBytes,
        bytesEvents_cons]
      cases line <;> simp [bytesEvents, lineAddress, rowCommand, Config.line1Byte, Config.line2Byte]
    · simp [plan, writeLinePlan, List.all_append, commands_noTransfer, data_noTransfer]
  case putNibble n => exact ⟨putNibble_events n, putNibble_noTransfer n⟩
  case strobe => exact ⟨rfl, rfl⟩
  all_goals simp [plan, bytesEvents, sendByte_events, sendByte_noTransfer]

/-- The meaning of a display operation that is accepted is its event list, run. -/
theorem exec_display (i : Instr) (s : State) (evs : List Event) (h : displayEvents i = some evs)
    (hs : s.seq = .idle) (ha : accepted i s) : exec i s = .next (runOperation i s) := by
  cases i <;> simp [displayEvents, bytesOf] at h <;> simp only [accepted] at ha <;>
    first
      | exact whenIdle_of_idle _ hs
      | (simp only [exec, execLcdClear, execLcdWriteLine, guarded, ha]; exact whenIdle_of_idle _ hs)

end Sys2Proof.Machine
end

