-- ==== Sys2Proof/Tests/Slice0.lean ====
section
/-! SUPPORT. Tests. Expected results come from the words and tables of spec/ (30_encoding.md for the decoder, 95_test_vectors.md for the
steps). The second half shows, for every statement that has hypotheses, states and operands that meet them. -/

namespace Sys2Proof.Tests

open Sys2Proof.Machine Sys2Proof.Safety

/-! ## Well-formedness -/

/-- A negative channel has no request word. -/
theorem test_wellFormed_negative_channel : (Instr.readChannel (-1)).wellFormed = false := by decide

/-- A channel of 14 bits has no request word; the largest of 13 bits has one. -/
theorem test_wellFormed_wide_channel :
    (Instr.readChannel 8192).wellFormed = false ∧ (Instr.readChannel 8191).wellFormed = true ∧
      (Instr.readChannel 0).wellFormed = true := by decide

/-! ## Decoding, word by word -/

/-- What a packet decodes to. -/
def read (port : Port) (bytes : List Byte) : Option Instr :=
  match decode ⟨port, bytes⟩ with
  | .ok i => some i
  | .error _ => none

/-- Why a packet is refused. -/
def whyNot (port : Port) (bytes : List Byte) : Option DecodeError :=
  match decode ⟨port, bytes⟩ with
  | .ok _ => none
  | .error e => some e

/-- OPC 000 (R83); CH 8 is the 4-bit value 1000 above it. -/
theorem test_decode_readChannel : read .hostReq [0b01000000, 0] = some (.readChannel 8) := by decide

/-- OPC 001, SAMPLE 78 = 00 0100 1110, then 33/10, 1023, 100/1, 0/1 and 2 (R83; the operands' layout is entry 3). -/
theorem test_decode_convert :
    read .hostReq [0b01110001, 0b00000010, 66, 9, 254, 15, 200, 1, 0, 0, 0, 2] =
      some (.convert 78 Config.model10mV 2) := by decide

/-- OPC 010 (R83). -/
theorem test_decode_lcdInit : read .hostReq [0b010] = some .lcdInit := by decide

/-- OPC 011 (R83). -/
theorem test_decode_lcdClear : read .hostReq [0b011] = some .lcdClear := by decide

/-- OPC 100, LSEL 1, TEXT of length 2 (R83). -/
theorem test_decode_lcdWriteLine : read .hostReq [0b1100, 2, 0x48, 0x69] = some (.lcdWriteLine [0x48, 0x69] .line2) := by decide

/-- OPC 101 (R83, R85). -/
theorem test_decode_reservedOpc5 : read .hostReq [0b101] = some .reservedOpc5 := by decide

/-- OPC 110 (R83, R85). -/
theorem test_decode_reservedOpc6 : read .hostReq [0b110] = some .reservedOpc6 := by decide

/-- OPC 111 (R83, R85). -/
theorem test_decode_reservedOpc7 : read .hostReq [0b111] = some .reservedOpc7 := by decide

/-- The 9-bit pattern 1 1010 0101 (R75). -/
theorem test_decode_sendByte : read .sendByte [0b10100101, 1] = some (.sendByte 0xA5 true) := by decide

/-- The 4-bit pattern 1010 (R77). -/
theorem test_decode_putNibble : read .nibble [0b1010] = some (.putNibble 0xA) := by decide

/-- The 5-bit pattern 1 0101 (R77): no operand of STROBE. -/
theorem test_decode_strobe : read .strobe [0b10101] = some .strobe := by decide

/-- The frame of channel 5, `00000001 11010000 00000000` (R71). -/
theorem test_decode_adcCmd : read .adcCmd [0b00000001, 0b11010000, 0b00000000] = some (.adcCmd 5) := by decide

/-- Any three bytes are a response (R74). -/
theorem test_decode_adcRsp : read .adcRsp [0xAB, 0xFE, 0x10] = some (.adcRsp ⟨0xAB, 0xFE, 0x10⟩) := by decide

/-- 0 0011 0011 (R76). -/
theorem test_decode_lcdCmdInit0 : read .lcdByte [0b00110011, 0] = some .lcdCmdInit0 := by decide

/-- 0 0011 0010 (R76). -/
theorem test_decode_lcdCmdInit1 : read .lcdByte [0b00110010, 0] = some .lcdCmdInit1 := by decide

/-- 0 0000 0110 (R76). -/
theorem test_decode_lcdCmdInit2 : read .lcdByte [0b00000110, 0] = some .lcdCmdInit2 := by decide

/-- 0 0000 1100 (R76). -/
theorem test_decode_lcdCmdInit3 : read .lcdByte [0b00001100, 0] = some .lcdCmdInit3 := by decide

/-- 0 0010 1000 (R76). -/
theorem test_decode_lcdCmdInit4 : read .lcdByte [0b00101000, 0] = some .lcdCmdInit4 := by decide

/-- 0 0000 0001 (R76). -/
theorem test_decode_lcdCmdClear : read .lcdByte [0b00000001, 0] = some .lcdCmdClear := by decide

/-- 0 1000 0000 (R76). -/
theorem test_decode_lcdCmdSetLine1 : read .lcdByte [0b10000000, 0] = some .lcdCmdSetLine1 := by decide

/-- 0 1100 0000 (R76). -/
theorem test_decode_lcdCmdSetLine2 : read .lcdByte [0b11000000, 0] = some .lcdCmdSetLine2 := by decide

/-- 1 0110 1001 (R76). -/
theorem test_decode_lcdData : read .lcdByte [0b01101001, 1] = some (.lcdData 0x69) := by decide

/-- Status 000 with a sample (R84; the value's kind is entry 4). -/
theorem test_decode_statusOk : read .hostRsp [0b00001000, 0x4E, 0x00] = some (.statusOk (.sample 78)) := by decide

/-- Status 001 (R84). -/
theorem test_decode_statusInvalidArgument : read .hostRsp [0b001] = some .statusInvalidArgument := by decide

/-- Status 010 (R84). -/
theorem test_decode_statusBusFailure : read .hostRsp [0b010] = some .statusBusFailure := by decide

/-- Status 011 (R84). -/
theorem test_decode_statusPinFailure : read .hostRsp [0b011] = some .statusPinFailure := by decide

/-- Status 100 (R84). -/
theorem test_decode_statusNotReady : read .hostRsp [0b100] = some .statusNotReady := by decide

/-- Status 101 (R84). -/
theorem test_decode_reservedStatus5 : read .hostRsp [0b101] = some .reservedStatus5 := by decide

/-- Status 110 (R84). -/
theorem test_decode_reservedStatus6 : read .hostRsp [0b110] = some .reservedStatus6 := by decide

/-- Status 111 (R84). -/
theorem test_decode_reservedStatus7 : read .hostRsp [0b111] = some .reservedStatus7 := by decide

/-- The table's numbering: byte 0 of a frame stands in bits 23 to 16 (R71), ISDATA in bit 8 (R75). -/
theorem test_decodeTableWord :
    decodeTableWord 24 0x01B000 = some (.adcCmd 3) ∧ decodeTableWord 24 0xABFE10 = some (.adcRsp ⟨0xAB, 0xFE, 0x10⟩) ∧
      decodeTableWord 16 0x028 = some .lcdCmdInit4 ∧ decodeTableWord 16 0x128 = some (.lcdData 0x28) ∧
      decodeTableWord 16 0x000 = some (.sendByte 0 false) ∧ decodeTableWord 8 0b000 = some (.readChannel 0) := by decide

/-- What is no instruction is refused by name (R76, R71, R83). -/
theorem test_decode_errors :
    whyNot .lcdByte [0x02, 0] = some .unknownCommandByte ∧ whyNot .adcCmd [0x01, 0x00, 0x00] = some .notACommandFrame ∧
      whyNot .hostReq [] = some .truncated ∧ whyNot .hostReq [0b1010] = some .strayBits ∧
      whyNot .hostReq [0b010, 1] = some .trailingBytes ∧ whyNot .hostRsp [24] = some .unknownValueKind := by decide

/-- A format of fixed length takes exactly its bytes: one more, be it zero, or one less is refused (R70). -/
theorem test_decode_fixed_length :
    whyNot .adcRsp [1, 2, 3, 0] = some .trailingBytes ∧ whyNot .adcRsp [1, 2] = some .truncated ∧
      whyNot .adcCmd [0x01, 0x80, 0x00, 0x00] = some .trailingBytes ∧ whyNot .lcdByte [0x33, 0, 0] = some .trailingBytes ∧
      whyNot .sendByte [0x33, 0, 0] = some .trailingBytes ∧ whyNot .nibble [5, 0] = some .trailingBytes ∧
      whyNot .strobe [0, 0] = some .trailingBytes ∧ whyNot .hostRsp [1, 0] = some .trailingBytes := by decide

/-! ## Steps -/

/-- The state an outcome goes on in. -/
def nextOf (o : Host.Outcome State Fault Refusal) : Option State :=
  match o with
  | .next t => some t
  | .fault _ => none
  | .refused _ => none

/-- The refusal an outcome ends in. -/
def refusalOf (o : Host.Outcome State Fault Refusal) : Option Refusal :=
  match o with
  | .next _ => none
  | .fault _ => none
  | .refused r => some r

/-- The reset state with the bus's one answer. -/
def onBus (a : BusAnswer) : State := { State.reset with bus := ⟨[a], .never⟩ }

/-- Ready with every line Low, as after a completed operation that left them so. -/
def ready : State :=
  { State.reset with lcdst := .ready, lvl := ⟨.low, .low, .low, .low, .low, .low⟩ }

/-- The n-th pin write fails, all others complete. -/
def failingPin (n : Nat) (s : State) : State :=
  { s with pins := ⟨List.replicate (n - 1) .ok ++ [.fails], .ok⟩ }

/-- The events and answers one instruction adds, with LCDST after it. -/
def effect (i : Instr) (s : State) : Option (List Event × List Response × LcdState) :=
  (nextOf (exec i s)).map (fun t => (t.trace, t.responses, t.lcdst))

/-- The events one instruction adds. -/
def events (i : Instr) (s : State) : Option (List Event) := (nextOf (exec i s)).map State.trace

/-- `l:L` of 95_test_vectors.md. -/
def lo (l : Line) : Event := .set l .low

/-- `l:H` of 95_test_vectors.md. -/
def hi (l : Line) : Event := .set l .high

/-- `ds` of 95_test_vectors.md. -/
def ds : Event := .dly .settle

/-- `dp` of 95_test_vectors.md. -/
def dp : Event := .dly .pulse

/-- Program P4, step 2 (95_test_vectors.md). -/
theorem test_readChannel_noise :
    effect (.readChannel 3) (onBus (.returns [0xAB, 0xFE, 0x10])) =
      some ([.xfer ⟨0x01, 0xB0, 0x00⟩ ⟨0xAB, 0xFE, 0x10⟩], [.ok (.sample 528)], .uninitialized) := by decide +kernel

/-- S8: channel 8 (95_test_vectors.md). -/
theorem test_readChannel_eight :
    effect (.readChannel 8) (onBus .never) = some ([], [.failed .invalidArgument], .uninitialized) := by decide +kernel

/-- S6 with the corrected number: 2516 (95_test_vectors.md, section 2.2). -/
theorem test_convert_scenario :
    effect (.convert 78 Config.model10mV 2) State.reset =
      some ([], [.ok (.temperature 2516)], .uninitialized) := by decide +kernel

/-- Model B, sample 15, places 2: -98 under HALF_EVEN, -99 under HALF_AWAY (95_test_vectors.md, section 2.3). -/
theorem test_convert_tie :
    temperatureCode .halfEven 15 ⟨⟨1023, 999⟩, 1023, ⟨1, 0⟩, ⟨-1, 0⟩⟩ 2 = -98 ∧
      temperatureCode .halfAway 15 ⟨⟨1023, 999⟩, 1023, ⟨1, 0⟩, ⟨-1, 0⟩⟩ 2 = -99 := by decide +kernel

/-- Program P1, step 1 (95_test_vectors.md). -/
theorem test_lcdInit :
    (nextOf (exec .lcdInit State.reset)).map (fun t => (t.trace.length, t.lvl, t.lcdst, t.responses)) =
      some (114, ⟨.low, .low, .high, .low, .low, .low⟩, .ready, [.ok .none]) := by decide +kernel

/-- Program P3, step 3: the twentieth pin write fails (95_test_vectors.md). -/
theorem test_lcdInit_fails :
    (nextOf (exec .lcdInit (failingPin 20 State.reset))).map
        (fun t => (t.trace.length, t.trace.getLast?, t.lvl, t.lcdst, t.responses)) =
      some (28, some (.setFail .e .low), ⟨.low, .unknown, .high, .high, .low, .low⟩, .uninitialized,
        [.failed .pinFailure]) := by decide +kernel

/-- LCD_CLEAR in Uninitialized: NOT_READY, no event (95_test_vectors.md, section 2.6). -/
theorem test_lcdClear_not_ready :
    effect .lcdClear State.reset = some ([], [.failed .notReady], .uninitialized) := by decide +kernel

/-- LCD_CLEAR in Ready: the trace of 0x01 as a command (95_test_vectors.md, sections 2.4 and 2.6). -/
theorem test_lcdClear :
    effect .lcdClear ready =
      some ([lo .rs, lo .db0, lo .db1, lo .db2, lo .db3, ds, hi .e, dp, lo .e, ds,
        lo .db1, lo .db2, lo .db3, hi .db0, ds, hi .e, dp, lo .e, ds], [.ok .none], .ready) := by decide +kernel

/-- Selected events of LCD_WRITE_LINE("Hi", LINE_1) (95_test_vectors.md, section 2.6). -/
theorem test_lcdWriteLine_events :
    (events (.lcdWriteLine [0x48, 0x69] .line1) ready).map
        (fun evs => (evs.length, [evs[4]?, evs[19]?, evs[23]?, evs[48]?, evs[61]?, evs[304]?])) =
      some (323, [some (hi .db3), some (hi .rs), some (hi .db2), some (lo .db1), some (hi .db1), some (hi .rs)]) := by
  decide +kernel

/-- LCD_WRITE_LINE("Hi", LINE_1): the fourteenth pin write fails (95_test_vectors.md, section 2.7). -/
theorem test_lcdWriteLine_fails :
    (nextOf (exec (.lcdWriteLine [0x48, 0x69] .line1) (failingPin 14 ready))).map
        (fun t => (t.trace.length, t.trace.getLast?, t.lvl, t.lcdst)) =
      some (20, some (.setFail .rs .high), ⟨.unknown, .low, .low, .low, .low, .low⟩, .uninitialized) := by decide +kernel

/-- The reserved op codes (R85). -/
theorem test_reservedOpc5 : effect .reservedOpc5 ready = some ([], [.failed .invalidArgument], .ready) := by decide

/-- The reserved op codes (R85). -/
theorem test_reservedOpc6 : effect .reservedOpc6 ready = some ([], [.failed .invalidArgument], .ready) := by decide

/-- The reserved op codes (R85). -/
theorem test_reservedOpc7 : effect .reservedOpc7 ready = some ([], [.failed .invalidArgument], .ready) := by decide

/-- The trace of 0xA5 as data (95_test_vectors.md, section 2.4). -/
theorem test_sendByte :
    events (.sendByte 0xA5 true) State.reset =
      some [hi .rs, lo .db0, lo .db2, hi .db1, hi .db3, ds, hi .e, dp, lo .e, ds,
        lo .db1, lo .db3, hi .db0, hi .db2, ds, hi .e, dp, lo .e, ds] := by decide +kernel

/-- The levels after 0xA5 as data (95_test_vectors.md, section 2.4). -/
theorem test_sendByte_levels :
    (nextOf (exec (.sendByte 0xA5 true) State.reset)).map State.lvl = some ⟨.high, .low, .high, .low, .high, .low⟩ := by
  decide +kernel

/-- The row 0x6 of R165's table. -/
theorem test_putNibble : events (.putNibble 6) State.reset = some [lo .db0, lo .db3, hi .db1, hi .db2] := by decide

/-- The five events of R167. -/
theorem test_strobe : events .strobe State.reset = some [ds, hi .e, dp, lo .e, ds] := by decide

/-- The frame of channel 7 (95_test_vectors.md, section 2.1). -/
theorem test_adcCmd :
    effect (.adcCmd 7) (onBus (.returns [0xFF, 0xFF, 0xFF])) =
      some ([.xfer ⟨0x01, 0xF0, 0x00⟩ ⟨0xFF, 0xFF, 0xFF⟩], [], .uninitialized) := by decide +kernel

/-- The scenario value with noise (95_test_vectors.md, section 2.1). -/
theorem test_adcRsp : effect (.adcRsp ⟨0x5A, 0xA4, 0x4E⟩) ready = some ([], [.ok (.sample 78)], .ready) := by decide +kernel

/-- The trace of 0x33 as a command (95_test_vectors.md, section 2.4). -/
theorem test_lcdCmdInit0 :
    events .lcdCmdInit0 State.reset =
      some [lo .rs, lo .db2, lo .db3, hi .db0, hi .db1, ds, hi .e, dp, lo .e, ds,
        lo .db2, lo .db3, hi .db0, hi .db1, ds, hi .e, dp, lo .e, ds] := by decide +kernel

/-- The trace of 0x32 as a command (95_test_vectors.md, section 2.4). -/
theorem test_lcdCmdInit1 :
    events .lcdCmdInit1 State.reset =
      some [lo .rs, lo .db2, lo .db3, hi .db0, hi .db1, ds, hi .e, dp, lo .e, ds,
        lo .db0, lo .db2, lo .db3, hi .db1, ds, hi .e, dp, lo .e, ds] := by decide +kernel

/-- The trace of 0x06 as a command (95_test_vectors.md, section 2.4). -/
theorem test_lcdCmdInit2 :
    events .lcdCmdInit2 State.reset =
      some [lo .rs, lo .db0, lo .db1, lo .db2, lo .db3, ds, hi .e, dp, lo .e, ds,
        lo .db0, lo .db3, hi .db1, hi .db2, ds, hi .e, dp, lo .e, ds] := by decide +kernel

/-- The trace of 0x0C as a command (95_test_vectors.md, section 2.4). -/
theorem test_lcdCmdInit3 :
    events .lcdCmdInit3 State.reset =
      some [lo .rs, lo .db0, lo .db1, lo .db2, lo .db3, ds, hi .e, dp, lo .e, ds,
        lo .db0, lo .db1, hi .db2, hi .db3, ds, hi .e, dp, lo .e, ds] := by decide +kernel

/-- The trace of 0x28 as a command (95_test_vectors.md, section 2.4). -/
theorem test_lcdCmdInit4 :
    events .lcdCmdInit4 State.reset =
      some [lo .rs, lo .db0, lo .db2, lo .db3, hi .db1, ds, hi .e, dp, lo .e, ds,
        lo .db0, lo .db1, lo .db2, hi .db3, ds, hi .e, dp, lo .e, ds] := by decide +kernel

/-- The trace of 0x01 as a command, here in Uninitialized (95_test_vectors.md, section 2.4; 90_conflicts.md C3). -/
theorem test_lcdCmdClear :
    events .lcdCmdClear State.reset =
      some [lo .rs, lo .db0, lo .db1, lo .db2, lo .db3, ds, hi .e, dp, lo .e, ds,
        lo .db1, lo .db2, lo .db3, hi .db0, ds, hi .e, dp, lo .e, ds] := by decide +kernel

/-- The trace of 0x80 as a command (95_test_vectors.md, section 2.4). -/
theorem test_lcdCmdSetLine1 :
    events .lcdCmdSetLine1 State.reset =
      some [lo .rs, lo .db0, lo .db1, lo .db2, hi .db3, ds, hi .e, dp, lo .e, ds,
        lo .db0, lo .db1, lo .db2, lo .db3, ds, hi .e, dp, lo .e, ds] := by decide +kernel

/-- The trace of 0xC0 as a command (95_test_vectors.md, section 2.4). -/
theorem test_lcdCmdSetLine2 :
    events .lcdCmdSetLine2 State.reset =
      some [lo .rs, lo .db0, lo .db1, hi .db2, hi .db3, ds, hi .e, dp, lo .e, ds,
        lo .db0, lo .db1, lo .db2, lo .db3, ds, hi .e, dp, lo .e, ds] := by decide +kernel

/-- The trace of 0x69 as data (95_test_vectors.md, section 2.4). -/
theorem test_lcdData :
    events (.lcdData 0x69) State.reset =
      some [hi .rs, lo .db0, lo .db3, hi .db1, hi .db2, ds, hi .e, dp, lo .e, ds,
        lo .db1, lo .db2, hi .db0, hi .db3, ds, hi .e, dp, lo .e, ds] := by decide +kernel

/-- Status OK with a value (R84). -/
theorem test_statusOk : effect (.statusOk (.sample 78)) ready = some ([], [.ok (.sample 78)], .ready) := by decide

/-- The numbers of R84's table. -/
theorem test_statusInvalidArgument :
    (nextOf (exec .statusInvalidArgument ready)).map (fun t => t.responses.map statusCode) = some [1] := by decide

/-- The numbers of R84's table. -/
theorem test_statusBusFailure :
    (nextOf (exec .statusBusFailure ready)).map (fun t => t.responses.map statusCode) = some [2] := by decide

/-- The numbers of R84's table; no pin write has failed, so LCDST stays (R11). -/
theorem test_statusPinFailure :
    (nextOf (exec .statusPinFailure ready)).map (fun t => (t.responses.map statusCode, t.lcdst)) =
      some ([3], .ready) := by decide

/-- The numbers of R84's table. -/
theorem test_statusNotReady :
    (nextOf (exec .statusNotReady ready)).map (fun t => t.responses.map statusCode) = some [4] := by decide

/-- Status 5 is never produced (R84). -/
theorem test_reservedStatus5 : refusalOf (exec .reservedStatus5 ready) = some (.reservedStatus 5) := by decide

/-- Status 6 is never produced (R84). -/
theorem test_reservedStatus6 : refusalOf (exec .reservedStatus6 ready) = some (.reservedStatus 6) := by decide

/-- Status 7 is never produced (R84). -/
theorem test_reservedStatus7 : refusalOf (exec .reservedStatus7 ready) = some (.reservedStatus 7) := by decide

/-- A word of the opcode table is taken by the very next step. -/
theorem test_withFetchWord :
    (nextOf (step (State.reset.withFetchWord 8 0b010))).map State.lcdst = some .ready ∧
      (nextOf (step (State.reset.withFetchWord 16 0x080))).map (fun t => t.trace.length) = some 19 ∧
      (nextOf (step (State.reset.withFetchWord 24 0x01F000))).map (fun t => t.trace) =
        some [.xfer ⟨0x01, 0xF0, 0x00⟩ ⟨0, 0, 0⟩] := by decide +kernel

/-! ## States and operands that meet the hypotheses of the statements -/

/-- An outcome that goes on has a next state. -/
theorem next_of {o : Host.Outcome State Fault Refusal} (h : (nextOf o).isSome = true) : ∃ t, o = .next t := by
  cases o with
  | next t => exact ⟨t, rfl⟩
  | fault r => cases h
  | refused r => cases h

/-- An outcome with a fact about its next state. -/
theorem next_with {α : Type} {o : Host.Outcome State Fault Refusal} {f : State → α} {a : α}
    (h : (nextOf o).map f = some a) : ∃ t, o = .next t ∧ f t = a := by
  cases o with
  | next t => exact ⟨t, rfl, Option.some.inj h⟩
  | fault r => cases h
  | refused r => cases h

/-- The reset state with one request waiting. -/
def asked (bytes : List Byte) : State := { State.reset with inbox := [⟨.hostReq, bytes⟩] }

/-- A state in the middle of an operation. -/
def within (op : Instr) (k : Nat) : State := { ready with seq := .busy op k }

/-- A display in step, the cursor as given. -/
def shown (c : Cursor) : State :=
  { ready with display := { cells := blankCells, cursor := c, half := .first, strobe := .unsettled, sync := 0 } }

/-- DecodeOfEncodeIsTheInstruction: both ends of the channel's range, and operands of other shapes. -/
theorem witness_DecodeOfEncodeIsTheInstruction :
    (Instr.readChannel 0).wellFormed = true ∧ (Instr.readChannel 8191).wellFormed = true ∧
      (Instr.convert 1023 Config.modelSpan 0).wellFormed = true ∧ (Instr.lcdWriteLine [] .line1).wellFormed = true := by
  decide

/-- FixedFormatsHaveTheirLength: a packet of each length. -/
theorem witness_FixedFormatsHaveTheirLength :
    (decode ⟨.adcRsp, [1, 2, 3]⟩ = .ok (.adcRsp ⟨1, 2, 3⟩) ∧ fixedLength .adcRsp = some 3) ∧
      (decode ⟨.lcdByte, [0x33, 0]⟩ = .ok .lcdCmdInit0 ∧ fixedLength .lcdByte = some 2) ∧
      decode ⟨.nibble, [5]⟩ = .ok (.putNibble 5) ∧ fixedLength .nibble = some 1 := ⟨⟨rfl, rfl⟩, ⟨rfl, rfl⟩, rfl, rfl⟩

/-- StepKeepsTheInvariant: a state in Ready with the invariant from which a step completes a request. -/
theorem witness_StepKeepsTheInvariant :
    CoreInv { ready with inbox := [⟨.hostReq, [0b011]⟩] } ∧
      ∃ t, step { ready with inbox := [⟨.hostReq, [0b011]⟩] } = .next t ∧ t.trace.length = 19 := by
  refine ⟨?_, next_with (by decide +kernel)⟩
  exact
    { cells := by decide
      locals := fun _ => rfl
      position := by intro op k h; cases h
      written := by intro l v h; cases h
      known := by intro _ l; cases l <;> decide
      enable := fun _ _ => rfl }

/-- StepRunsTheDecodedPacket: a request that decodes to LCD_INIT. -/
theorem witness_StepRunsTheDecodedPacket :
    (asked [0b010]).seq = .idle ∧ (asked [0b010]).inbox = ⟨.hostReq, [0b010]⟩ :: [] ∧
      decode ⟨.hostReq, [0b010]⟩ = .ok .lcdInit := ⟨rfl, rfl, rfl⟩

/-- IdleCoreWaitsOrRefuses: both clauses. -/
theorem witness_IdleCoreWaitsOrRefuses :
    (State.reset.seq = .idle ∧ State.reset.inbox = []) ∧
      (asked []).seq = .idle ∧ (asked []).inbox = ⟨.hostReq, []⟩ :: [] ∧
        decode ⟨.hostReq, []⟩ = .error .truncated := ⟨⟨rfl, rfl⟩, rfl, rfl, rfl⟩

/-- OverlappingRequestIsRefused. -/
theorem witness_OverlappingRequestIsRefused :
    (within .lcdInit 113).seq = .busy .lcdInit 113 ∧ hostOperation (.readChannel 0) = true := ⟨rfl, rfl⟩

/-- BigStepIsTheIteratedEventStep: READ_CHANNEL at both ends of its range, and LCD_WRITE_LINE in Ready. -/
theorem witness_BigStepIsTheIteratedEventStep :
    (ready.seq = .idle ∧ 0 < (plan (.lcdWriteLine [] .line2)).length ∧ accepted (.lcdWriteLine [] .line2) ready) ∧
      ∀ c : Int, c = 0 ∨ c = 7 → 0 < (plan (.readChannel c)).length ∧ accepted (.readChannel c) ready ∧
        ∀ channel : Int, Instr.readChannel c = .readChannel channel → 0 ≤ channel ∧ channel ≤ 7 := by
  refine ⟨⟨rfl, by decide +kernel, rfl⟩, ?_⟩
  intro c hc
  refine ⟨Nat.zero_lt_one, trivial, ?_⟩
  intro channel h
  cases h
  omega

/-- SequencerNeverSkipsOrGoesBack: one event forward, back to Idle, and a bus that hangs. -/
theorem witness_SequencerNeverSkipsOrGoesBack :
    (∃ t, step (within .lcdInit 0) = .next t ∧ t.seq = .busy .lcdInit 1) ∧
      (∃ t, step (within .lcdInit 113) = .next t ∧ t.seq = .idle) ∧
      ∃ t, step { within (.readChannel 5) 0 with bus := ⟨[], .never⟩ } = .next t ∧ t.seq = .busy (.readChannel 5) 0 :=
  ⟨next_with (by decide +kernel), next_with (by decide +kernel), next_with (by decide +kernel)⟩

/-- EventOfASequencerPosition: the first and the last event of both operations, and a pin write that fails. -/
theorem witness_EventOfASequencerPosition :
    (∀ k, k = 0 ∨ k = 113 → (within .lcdInit k).seq = .busy .lcdInit k ∧ k < 19 * initBytes.length ∧
        (within .lcdInit k).pins.head = .ok) ∧
      (∀ k, k = 0 ∨ k = 322 → (within (.lcdWriteLine [0x48] .line1) k).seq = .busy (.lcdWriteLine [0x48] .line1) k ∧
        k < 19 * (lineBytes [0x48] .line1).length ∧ (within (.lcdWriteLine [0x48] .line1) k).pins.head = .ok) ∧
      (failingPin 1 (within .lcdInit 0)).pins.head = .fails ∧ (sendByteEvents 0x33 false)[0]? = some (.set .rs .low) ∧
        (sendByteEvents 0x33 false)[5]? = some (.dly .settle) := by
  refine ⟨?_, ?_, rfl, rfl, rfl⟩
  · rintro k (rfl | rfl) <;> exact ⟨rfl, by decide, rfl⟩
  · rintro k (rfl | rfl) <;> exact ⟨rfl, by decide, rfl⟩

/-- StepOnlyAddsToTheOutputs. -/
theorem witness_StepOnlyAddsToTheOutputs : ∃ t, step (within .lcdClear 18) = .next t ∧ t.responses = [.ok .none] :=
  next_with (by decide +kernel)

/-- ReadChannelReturnsTheSample: both ends of the channel's range. -/
theorem witness_ReadChannelReturnsTheSample :
    (onBus (.returns [0, 0, 0x4E])).seq = .idle ∧ (onBus (.returns [0, 0, 0x4E])).bus.head = .returns [0, 0, 0x4E] ∧
      ((0 : Int) ≤ 0 ∧ (0 : Int) ≤ 7) ∧ (0 : Int) ≤ 7 ∧ (7 : Int) ≤ 7 := by decide

/-- ReadChannelRejectsAnIllegalChannel: just outside both ends. -/
theorem witness_ReadChannelRejectsAnIllegalChannel :
    State.reset.seq = .idle ∧ ((-1 : Int) < 0 ∨ 7 < (-1 : Int)) ∧ ((8 : Int) < 0 ∨ 7 < (8 : Int)) := by decide

/-- ReadChannelReportsABusFailure: a failing bus, and answers of two and of four bytes. -/
theorem witness_ReadChannelReportsABusFailure :
    ((onBus .fails).seq = .idle ∧ (onBus .fails).bus.head = .fails) ∧
      ∀ rx : List Byte, rx = [1, 2] ∨ rx = [1, 2, 3, 4] →
        (onBus (.returns rx)).bus.head = .returns rx ∧ rx.length ≠ 3 := by
  refine ⟨⟨rfl, rfl⟩, ?_⟩
  rintro rx (rfl | rfl) <;> exact ⟨rfl, by decide⟩

/-- HungBusIsNeverAnswered. -/
theorem witness_HungBusIsNeverAnswered :
    (onBus .never).seq = .idle ∧ (0 : Int) ≤ 5 ∧ (5 : Int) ≤ 7 ∧ (onBus .never).bus.head = .never := by decide

/-- UnusedResponseBitsHaveNoEffect: the noise of two answers differs in every unused bit. -/
theorem witness_UnusedResponseBitsHaveNoEffect :
    State.reset.seq = .idle ∧ (0xFE : Byte) &&& 0x03 = (0x02 : Byte) &&& 0x03 ∧
      ∃ t, exec (.readChannel 0) { State.reset with bus := ⟨.returns [0xFF, 0xFE, 0x10] :: [], .never⟩ } = .next t :=
  ⟨rfl, by decide, next_of (by decide +kernel)⟩

/-- ReadChannelAnswersTheConvertersCode: a converter, its answer for both ends of the range, and a bus that gives it. -/
theorem witness_ReadChannelAnswersTheConvertersCode :
    converterAnswer (fun c => BitVec.setWidth 10 c) 0x3FFF (commandFrame 7) = some ⟨0xFF, 0xFC, 0x07⟩ ∧
      converterAnswer (fun c => BitVec.setWidth 10 c) 0 (commandFrame 0) = some ⟨0x00, 0x00, 0x00⟩ ∧
      (onBus (.returns [0xFF, 0xFC, 0x07])).seq = .idle ∧
      (onBus (.returns [0xFF, 0xFC, 0x07])).bus.head = .returns [0xFF, 0xFC, 0x07] := by decide +kernel

/-- CommandFrameMakesOneExchange and ReadChannelIsCommandThenResponse. -/
theorem witness_CommandFrameMakesOneExchange :
    (onBus (.returns [1, 2, 3])).seq = .idle ∧ (onBus (.returns [1, 2, 3])).bus.head = .returns [1, 2, 3] := by decide

/-- CommandFrameFailsOrHangsWithTheBus: a failing bus, an answer of no byte, a bus that never returns. -/
theorem witness_CommandFrameFailsOrHangsWithTheBus :
    (onBus .fails).bus.head = .fails ∧ (onBus (.returns [])).bus.head = .returns [] ∧ ([] : List Byte).length ≠ 3 ∧
      (onBus .never).bus.head = .never ∧ (onBus .never).seq = .idle := by decide

/-- ResponseIsDecodedToTheSample, ReservedOpCodesAreInvalidArguments, StatusRowsAnswerTheHost: an Idle state. -/
theorem witness_idle : ready.seq = .idle ∧ State.reset.seq = .idle := by decide

/-- ConvertAnswersTheRoundedTemperature, IntegerFormEqualsTheRationalForm: the smallest and a usual fullScaleCode. -/
theorem witness_ConvertAnswersTheRoundedTemperature :
    State.reset.seq = .idle ∧ 0 < Config.model10mV.fullScaleCode ∧
      0 < (SensorModel.mk ⟨33, 9⟩ 1 ⟨100, 0⟩ ⟨0, 0⟩).fullScaleCode := by decide

/-- ConvertFailsExactlyOnAMalformedModel: zero, a negative and the smallest positive fullScaleCode. -/
theorem witness_ConvertFailsExactlyOnAMalformedModel :
    State.reset.seq = .idle ∧ (SensorModel.mk ⟨33, 9⟩ 0 ⟨100, 0⟩ ⟨0, 0⟩).fullScaleCode ≤ 0 ∧
      (SensorModel.mk ⟨33, 9⟩ (-1023) ⟨100, 0⟩ ⟨0, 0⟩).fullScaleCode ≤ 0 ∧
      0 < (SensorModel.mk ⟨33, 9⟩ 1 ⟨100, 0⟩ ⟨0, 0⟩).fullScaleCode := by decide

/-- RoundingIsSymmetricAndMonotone: two ties, in order. -/
theorem witness_RoundingIsSymmetricAndMonotone : (-(1 / 2) : ℚ) ≤ 1 / 2 := by norm_num

/-- ZeroAndFullScaleIdentities: the full-scale sample of a usual model, and of one with the fullScaleCode 1. -/
theorem witness_ZeroAndFullScaleIdentities :
    (0 < Config.modelSpan.fullScaleCode ∧ (((1023 : Sample).toNat : Int) = Config.modelSpan.fullScaleCode)) ∧
      (((1 : Sample).toNat : Int) = (SensorModel.mk ⟨33, 9⟩ 1 ⟨100, 0⟩ ⟨0, 0⟩).fullScaleCode) := by decide

/-- ConvertIsMonotoneInTheSample: a positive slope, the slope zero and a negative slope, over the whole range of samples. -/
theorem witness_ConvertIsMonotoneInTheSample :
    0 < Config.modelSpan.fullScaleCode ∧ (0 : Sample).toNat ≤ (1023 : Sample).toNat ∧
      0 ≤ fracValue Config.modelSpan.referenceVoltage * fracValue Config.modelSpan.scale ∧
      0 ≤ fracValue ⟨0, 0⟩ * fracValue ⟨100, 0⟩ ∧
      fracValue ⟨33, 9⟩ * fracValue ⟨-100, 0⟩ < 0 := by
  refine ⟨by decide, by decide, ?_, ?_, ?_⟩ <;> norm_num [fracValue, fracDen, Config.modelSpan]

/-- NoTieUnderTheTwoPresets: both models. -/
theorem witness_NoTieUnderTheTwoPresets :
    (Config.model10mV = Config.model10mV ∨ Config.model10mV = Config.modelSpan) ∧
      (Config.modelSpan = Config.model10mV ∨ Config.modelSpan = Config.modelSpan) := by decide

/-- PutNibbleWritesTheTableRow, StrobeIsFiveEventsOnE, SendByteEmitsNineteenEvents, InitSendsSixCommandsAndBecomesReady: pins that complete
just as many writes as each needs, the next one failing. -/
theorem witness_pins :
    ∀ n, n = 2 ∨ n = 4 ∨ n = 13 ∨ n = 78 → (failingPin (n + 1) State.reset).seq = .idle ∧
      pinsAllow n (failingPin (n + 1) State.reset).pins = true ∧
      pinsAllow (n + 1) (failingPin (n + 1) State.reset).pins = false := by
  rintro n (rfl | rfl | rfl | rfl) <;> decide +kernel

/-- ProtocolByteRowsSendTheirByte: a command row and a data byte. -/
theorem witness_ProtocolByteRowsSendTheirByte :
    (failingPin 14 State.reset).seq = .idle ∧ pinsAllow 13 (failingPin 14 State.reset).pins = true ∧
      (Instr.lcdCmdSetLine2, (0xC0 : Byte)) ∈ commandRows ∧ Instr.lcdData 0xFF = .lcdData 0xFF := by decide +kernel

/-- ClearSendsOneCommand: just enough pin writes, in Ready. -/
theorem witness_ClearSendsOneCommand :
    (failingPin 14 ready).seq = .idle ∧ (failingPin 14 ready).lcdst = .ready ∧
      pinsAllow 13 (failingPin 14 ready).pins = true := by decide +kernel

/-- WriteLineSendsAddressAndSixteenCells: just enough pin writes, in Ready. -/
theorem witness_WriteLineSendsAddressAndSixteenCells :
    (failingPin 222 ready).seq = .idle ∧ (failingPin 222 ready).lcdst = .ready ∧
      pinsAllow 221 (failingPin 222 ready).pins = true := by decide +kernel

/-- UninitializedDisplayIsNotReady: both operations, both states. -/
theorem witness_UninitializedDisplayIsNotReady :
    (State.reset.seq = .idle ∧ State.reset.lcdst = .uninitialized) ∧ (ready.seq = .idle ∧ ready.lcdst = .ready) ∧
      Instr.lcdClear = .lcdClear ∧ ∃ text line, Instr.lcdWriteLine [] .line2 = .lcdWriteLine text line :=
  ⟨⟨rfl, rfl⟩, ⟨rfl, rfl⟩, rfl, [], .line2, rfl⟩

/-- PinFailureTruncatesTheOperation: the first and the last pin write of LCD_CLEAR. -/
theorem witness_PinFailureTruncatesTheOperation :
    (accepted .lcdClear ready ∧ displayEvents .lcdClear = some (sendByteEvents 0x01 false)) ∧
      (sendByteEvents 0x01 false = [] ++ .set .rs .low :: (sendByteEvents 0x01 false).drop 1 ∧
        pinsAllow (pinWrites []) (failingPin 1 ready).pins = true ∧
        ((failingPin 1 ready).pins.skip (pinWrites [])).head = .fails) ∧
      sendByteEvents 0x01 false = (sendByteEvents 0x01 false).take 17 ++ .set .e .low :: [.dly .settle] ∧
        pinsAllow (pinWrites ((sendByteEvents 0x01 false).take 17)) (failingPin 13 ready).pins = true ∧
        ((failingPin 13 ready).pins.skip (pinWrites ((sendByteEvents 0x01 false).take 17))).head = .fails := by
  refine ⟨⟨rfl, rfl⟩, ?_, ?_⟩ <;> decide +kernel

/-- StrobeShapeIsNeverBroken: an operation that completes and one that fails inside its first strobe. -/
theorem witness_StrobeShapeIsNeverBroken :
    displayEvents .lcdInit = some (bytesEvents initBytes) ∧ State.reset.seq = .idle ∧
      (∃ t, exec .lcdInit State.reset = .next t) ∧
      ∃ t, exec .lcdInit (failingPin 7 State.reset) = .next t ∧ t.trace.length = 9 :=
  ⟨rfl, rfl, next_of (by decide +kernel), next_with (by decide +kernel)⟩

/-- BytesOnTheWireAreTheBytesSent: LCD_CLEAR in Ready with just enough pin writes. -/
theorem witness_BytesOnTheWireAreTheBytesSent :
    (failingPin 14 ready).seq = .idle ∧ bytesOf .lcdClear = some [(0x01, false)] ∧
      pinsAllow (13 * [((0x01 : Byte), false)].length) (failingPin 14 ready).pins = true := by decide +kernel

/-- BytesOnTheWireAreTheBytesSent, CountsOfCompletedOperations: LCD_CLEAR is accepted in Ready. -/
theorem witness_accepted : accepted .lcdClear (failingPin 14 ready) ∧ accepted .lcdInit State.reset := ⟨rfl, trivial⟩

/-- HostCanSendOnlyTheCommandMap: a display operation that fails and one that completes. -/
theorem witness_HostCanSendOnlyTheCommandMap :
    hostOperation .lcdInit = true ∧ (∃ t, exec .lcdInit (failingPin 20 State.reset) = .next t ∧ t.trace.length = 28) ∧
      ∃ t, exec .lcdInit State.reset = .next t ∧ t.trace.length = 114 :=
  ⟨rfl, next_with (by decide +kernel), next_with (by decide +kernel)⟩

/-- CountsOfCompletedOperations: the four operations with just enough pin writes. -/
theorem witness_CountsOfCompletedOperations :
    ∀ n, n = 1 ∨ n = 6 ∨ n = 17 → (failingPin (13 * n + 1) ready).seq = .idle ∧
      pinsAllow (13 * n) (failingPin (13 * n + 1) ready).pins = true := by
  rintro n (rfl | rfl | rfl) <;> decide +kernel

/-- DurationsAreBoundedBelow: the shortest legal delays. -/
theorem witness_DurationsAreBoundedBelow :
    ready.seq = .idle ∧ ready.lcdst = .ready ∧ legalCfg ready.cfg ∧ pinsAllow 221 ready.pins = true :=
  ⟨rfl, rfl, by unfold legalCfg; decide, by decide +kernel⟩

/-- DisplayShowsTheWrittenLine, InitAndClearBlankTheDisplay, DataLandsAtTheCursor: a display in step, the cursor in the first cell and in
the last. -/
theorem witness_DisplayShowsTheWrittenLine :
    (∀ c, c = .at .line1 0 ∨ c = .at .line2 15 → (shown c).seq = .idle ∧ (shown c).lcdst = .ready ∧
      inStep (shown c).display ∧ (shown c).display.cursor = c) ∧
      pinsAllow 221 (shown .unknown).pins = true ∧ pinsAllow 78 State.reset.pins = true := by
  refine ⟨?_, by decide +kernel, by decide +kernel⟩
  intro c _
  exact ⟨rfl, rfl, ⟨rfl, Or.inl rfl⟩, rfl⟩

/-- CoreCannotSeeTheDisplay: an instruction that goes on and one that is refused. -/
theorem witness_CoreCannotSeeTheDisplay :
    (∃ t, exec .lcdCmdSetLine1 State.reset = .next t) ∧
      exec .reservedStatus5 State.reset = .refused (.reservedStatus 5) := ⟨next_of (by decide +kernel), rfl⟩

/-- OtherUnitsLeaveTheDisplayAlone: a read, and the response PIN_FAILURE. -/
theorem witness_OtherUnitsLeaveTheDisplayAlone :
    displayEvents (.readChannel 0) = none ∧ displayEvents .statusPinFailure = none ∧
      (∃ t, exec (.readChannel 0) ready = .next t ∧ t.lcdst = .ready) ∧
      ∃ t, exec .statusPinFailure ready = .next t ∧ t.lcdst = .ready :=
  ⟨rfl, rfl, next_with (by decide +kernel), next_with (by decide)⟩

/-- DriverStateChangesInTwoWays: both ways. -/
theorem witness_DriverStateChangesInTwoWays :
    (∃ t, exec .lcdInit State.reset = .next t ∧ decide (t.lcdst ≠ State.reset.lcdst) = true) ∧
      ∃ t, exec .lcdClear (failingPin 13 ready) = .next t ∧ decide (t.lcdst ≠ ready.lcdst) = true :=
  ⟨next_with (by decide +kernel), next_with (by decide +kernel)⟩

/-- InvalidArgumentDependsOnOperandsOnly: an illegal channel, a malformed model and a reserved op code. -/
theorem witness_InvalidArgumentDependsOnOperandsOnly :
    ∀ i, i = Instr.readChannel 8 ∨ i = .convert 78 ⟨⟨33, 9⟩, 0, ⟨100, 0⟩, ⟨0, 0⟩⟩ 2 ∨ i = .reservedOpc5 →
      hostOperation i = true ∧ ∃ t, exec i ready = .next t ∧ t.responses = ready.responses ++ [.failed .invalidArgument] := by
  rintro i (rfl | rfl | rfl) <;> exact ⟨rfl, next_with (by decide +kernel)⟩

/-- EveryRequestIsAnsweredOnceUnlessTheBusHangs: an answered request and a hung one. -/
theorem witness_EveryRequestIsAnsweredOnceUnlessTheBusHangs :
    hostOperation (.readChannel 7) = true ∧
      (∃ t, exec (.readChannel 7) (onBus .fails) = .next t ∧ t.responses = [.failed .busFailure]) ∧
      ∃ t, exec (.readChannel 7) (onBus .never) = .next t ∧ t.responses = [] :=
  ⟨rfl, next_with (by decide +kernel), next_with (by decide +kernel)⟩

/-- PinFailureIsRecoveredByInit: a failing pin write, after which all complete. -/
theorem witness_PinFailureIsRecoveredByInit :
    (displayEvents .lcdClear).isSome = true ∧ ∃ t, exec .lcdClear (failingPin 1 ready) = .next t ∧
      (t.responses, pinsAllow 78 t.pins) = (ready.responses ++ [.failed .pinFailure], true) :=
  ⟨rfl, next_with (by decide +kernel)⟩

end Sys2Proof.Tests
end

section
/-! The shared facts about one primitive call, the end of an operation and the event lists. -/

namespace Sys2Proof.StateProofs

open Sys2Proof.Machine Sys2Proof.Safety

/-! ## One primitive call -/

/-- Everything one event of an operation can come to, after the writes of working values before it (rules R46, R53, R169). -/
inductive Performed (m : Micro) (s : State) : Progress → Prop where
  | pinDone (l : Line) (v : Level) (prim : m.prim = .pin l v) :
    Performed m s (.done (pinSetDone l v (writeLocals m.writes s)))
  | pinFailed (l : Line) (v : Level) (prim : m.prim = .pin l v) :
    Performed m s (.ended (raise .pinFailure (pinSetFailed l v (writeLocals m.writes s))))
  | delayDone (d : DelayKind) (prim : m.prim = .delay d) :
    Performed m s (.done (emit (.dly d) (writeLocals m.writes s)))
  | busDone (tx rx : Frame) (prim : m.prim = .transfer tx) :
    Performed m s (.done (busDone tx rx (writeLocals m.writes s)))
  | busFailed (tx : Frame) (prim : m.prim = .transfer tx) :
    Performed m s (.ended (busFailed tx (writeLocals m.writes s)))
  | busHung (tx : Frame) (prim : m.prim = .transfer tx) :
    Performed m s (.hung (writeLocals m.writes s))

theorem performed (m : Micro) (s : State) : Performed m s (perform m s) := by
  unfold perform
  cases hm : m.prim with
  | pin l v =>
    rcases pinSet_cases l v (writeLocals m.writes s) with ⟨-, h⟩ | ⟨-, h⟩ <;> rw [callPrim, h]
    · exact .pinDone l v hm
    · exact .pinFailed l v hm
  | delay d => exact .delayDone d hm
  | transfer tx =>
    rcases busTransfer_cases tx (writeLocals m.writes s) with ⟨b0, b1, b2, -, h⟩ | ⟨-, h⟩ | ⟨-, h⟩ <;>
      rw [callPrim, h]
    · exact .busDone tx ⟨b0, b1, b2⟩ hm
    · exact .busFailed tx hm
    · exact .busHung tx hm

/-- The same, where it is known how the event left the operation. -/
theorem performed_of_eq {m : Micro} {s : State} {p : Progress} (h : perform m s = p) : Performed m s p :=
  h ▸ performed m s

/-! ## The end of an operation -/

@[simp] theorem answerSample_lcdst (s : State) : (answerSample s).lcdst = s.lcdst := by
  unfold answerSample; split <;> rfl

theorem ending_eq_becomesReady {op : Instr} : ending op = .becomesReady ↔ op = .lcdInit := by
  cases op <;> simp [ending]

/-- Of all endings only LCD_INIT's writes LCDST (rules R11, R172). -/
theorem conclude_lcdst (op : Instr) (s : State) :
    (conclude op s).lcdst = if op = .lcdInit then .ready else s.lcdst := by
  simp only [← ending_eq_becomesReady]
  unfold conclude
  cases ending op <;> simp

/-! ## The event lists -/

/-- What is no display operation makes at most one primitive call, an exchange. -/
theorem plan_of_not_display {i : Instr} (h : displayEvents i = none) :
    plan i = [] ∨ ∃ channel, plan i = transferPlan channel := by
  cases i <;> simp [displayEvents, bytesOf] at h
  case readChannel channel => exact .inr ⟨channel, rfl⟩
  case adcCmd channel => exact .inr ⟨channel.toNat, rfl⟩
  all_goals exact .inl rfl

/-- An exchange stands first in its operation, and no working value is written just before it (rules R112, R113). -/
theorem plan_transfer {op : Instr} {k : Nat} {m : Micro} {tx : Frame} (hk : (plan op)[k]? = some m)
    (hm : m.prim = .transfer tx) : k = 0 ∧ m.writes = [] := by
  cases hd : displayEvents op with
  | some evs =>
    have hn := List.all_eq_true.1 (plan_events op evs hd).2 m (List.mem_of_getElem? hk)
    simp [noTransfer, hm] at hn
  | none =>
    rcases plan_of_not_display hd with hp | ⟨channel, hp⟩
    · simp [hp] at hk
    · rw [hp, transferPlan, List.getElem?_singleton] at hk
      split at hk
      · rename_i h0
        cases hk
        exact ⟨h0, rfl⟩
      · cases hk

/-- A bus that hangs leaves the state as it was (rule R119). -/
theorem perform_hung {op : Instr} {k : Nat} {m : Micro} {s s' : State} (hm : (plan op)[k]? = some m)
    (hp : perform m s = .hung s') : s' = s := by
  cases performed_of_eq hp with
  | busHung tx prim =>
    obtain ⟨-, hw⟩ := plan_transfer hm prim
    rw [hw]
    rfl

/-! ## What an instruction comes to -/

/-- The three courses an instruction can take at an Idle core. -/
inductive Course where
  /-- Answers and writes nothing else. -/
  | responds (r : Response)
  /-- Runs its event list. -/
  | runs
  /-- Is a reserved status (rule R84). -/
  | reserved (code : Nat)

/-- The outcome of each course. -/
def Course.outcome (i : Instr) (s : State) : Course → Host.Outcome State Fault Refusal
  | .responds r => whenIdle s (answer r s)
  | .runs => whenIdle s (runOperation i s)
  | .reserved code => .refused (.reservedStatus code)

/-- The guard of LCD_CLEAR and LCD_WRITE_LINE as a course (rule R171). -/
def guardedCourse : LcdState → Course
  | .ready => .runs
  | .uninitialized => .responds (.failed .notReady)

theorem guarded_outcome (op : Instr) (s : State) :
    whenIdle s (guarded op s) = (guardedCourse s.lcdst).outcome op s := by
  unfold guarded
  cases h : s.lcdst
  · simp [guardedCourse, Course.outcome, raise, lcdstAfterFailure]
  · rfl

/-- The course of an instruction, from the only two things of the state it depends on: LCDST (rule R171) and ROUND_MODE (rule R137). -/
def course (lcdst : LcdState) (mode : RoundMode) : Instr → Course
  | .readChannel channel => if channel < 0 ∨ 7 < channel then .responds (.failed .invalidArgument) else .runs
  | .convert sample model places =>
    if model.fullScaleCode ≤ 0 then .responds (.failed .invalidArgument)
    else .responds (.ok (.temperature (temperatureCode mode sample model places)))
  | .lcdClear | .lcdWriteLine _ _ => guardedCourse lcdst
  | .reservedOpc5 | .reservedOpc6 | .reservedOpc7 => .responds (.failed .invalidArgument)
  | .adcRsp response => .responds (.ok (.sample (assembleSample response)))
  | .statusOk value => .responds (.ok value)
  | .statusInvalidArgument => .responds (.failed .invalidArgument)
  | .statusBusFailure => .responds (.failed .busFailure)
  | .statusPinFailure => .responds (.failed .pinFailure)
  | .statusNotReady => .responds (.failed .notReady)
  | .reservedStatus5 => .reserved 5
  | .reservedStatus6 => .reserved 6
  | .reservedStatus7 => .reserved 7
  | _ => .runs

/-- Every instruction does what its course says. -/
theorem exec_eq_outcome (i : Instr) (s : State) :
    exec i s = (course s.lcdst s.cfg.roundMode i).outcome i s := by
  cases i
  case readChannel channel =>
    simp only [exec, execReadChannel, course]
    split <;> rfl
  case convert sample model places =>
    simp only [exec, execConvert, course]
    split <;> rfl
  case lcdClear => exact guarded_outcome .lcdClear s
  case lcdWriteLine text line => exact guarded_outcome (.lcdWriteLine text line) s
  all_goals rfl

/-- An instruction that goes on has answered and written nothing else, or has run its event list. -/
theorem exec_next {i : Instr} {s t : State} (h : exec i s = .next t) :
    s.seq = .idle ∧ ((∃ r, t = answer r s) ∨ t = runOperation i s) := by
  rw [exec_eq_outcome] at h
  cases hc : course s.lcdst s.cfg.roundMode i with
  | responds r =>
    rw [hc] at h
    obtain ⟨hs, rfl⟩ := whenIdle_next.1 h
    exact ⟨hs, .inl ⟨r, rfl⟩⟩
  | runs =>
    rw [hc] at h
    obtain ⟨hs, rfl⟩ := whenIdle_next.1 h
    exact ⟨hs, .inr rfl⟩
  | reserved code =>
    rw [hc] at h
    cases h

end Sys2Proof.StateProofs
end

section
/-! The sequencer: a whole operation is its events one by one, and SEQ goes forward by one. -/

namespace Sys2Proof.StateProofs

open Sys2Proof.Machine Sys2Proof.Safety

/-- From an event that exists, one step goes where the whole operation goes: to its end, or to its next event (rule R14). -/
theorem runMicros_resume {op : Instr} {k : Nat} (s : State) (hk : k < (plan op).length) :
    ∃ t, resume op k s = .next t ∧
      (runMicros op k ((plan op).drop k) s = t ∨
        t.seq = .busy op (k + 1) ∧ k + 1 < (plan op).length ∧
          runMicros op k ((plan op).drop k) s = runMicros op (k + 1) ((plan op).drop (k + 1)) t) := by
  rcases resume_cases op k s with ⟨hle, -⟩ | ⟨m, hm, hcases⟩
  · omega
  have hdrop : (plan op).drop k = m :: (plan op).drop (k + 1) := by
    rw [List.drop_eq_getElem_cons hk, (List.getElem?_eq_some_iff.1 hm).2]
  rw [hdrop, runMicros]
  rcases hcases with ⟨s', hp, hlen, e⟩ | ⟨s', hp, hlen, e⟩ | ⟨s', hp, e⟩ | ⟨s', hp, e⟩ <;>
    refine ⟨_, e, ?_⟩ <;> rw [hp]
  · rw [hlen, List.drop_length]
    exact .inl rfl
  · exact .inr ⟨rfl, hlen, rfl⟩
  · exact .inl rfl
  · exact .inl rfl

/-- What every event of an operation keeps, the whole operation keeps. -/
theorem runMicros_induction {op : Instr} {P : State → Prop}
    (hP : ∀ k s t, P s → s.seq = .busy op k → resume op k s = .next t → P t) {k : Nat} {s : State}
    (hk : k < (plan op).length) (hs : P s) (hseq : s.seq = .busy op k) :
    P (runMicros op k ((plan op).drop k) s) := by
  obtain ⟨t, hstep, hend | ⟨ht, hk', hnext⟩⟩ := runMicros_resume s hk
  · rw [hend]
    exact hP k s t hs hseq hstep
  · rw [hnext]
    exact runMicros_induction hP hk' (hP k s t hs hseq hstep) ht
termination_by (plan op).length - k

/-- A run of one step more. -/
theorem core_run_succ {n : Nat} {s t : State} (h : step s = .next t) :
    Host.Core.run Sys2Proof.core (n + 1) s = Host.Core.run Sys2Proof.core n t := by
  have hcore : Sys2Proof.core.step s = .next t := h
  simp only [Host.Core.run, hcore]

/-- The events still to come, as steps of the machine: at most one step each. -/
theorem run_of_runMicros {op : Instr} {k : Nat} {s : State} (hk : k < (plan op).length) (hseq : s.seq = .busy op k) :
    ∃ n, n ≤ (plan op).length - k ∧
      Host.Core.run Sys2Proof.core n s = .next (runMicros op k ((plan op).drop k) s) := by
  have hstep : step s = resume op k s := by rw [step, hseq]
  obtain ⟨t, ht, hend | ⟨hseq', hk', hnext⟩⟩ := runMicros_resume s hk
  · refine ⟨1, by omega, ?_⟩
    rw [core_run_succ (hstep.trans ht), hend]
    rfl
  · obtain ⟨n, hn, hrun⟩ := run_of_runMicros hk' hseq'
    refine ⟨n + 1, by omega, ?_⟩
    rw [core_run_succ (hstep.trans ht), hnext]
    exact hrun
termination_by (plan op).length - k

/-- An operation with events, accepted and with a legal channel, is its event list, run. -/
theorem exec_of_accepted {op : Instr} {s : State} (hs : s.seq = .idle) (hlen : 0 < (plan op).length)
    (ha : accepted op s) (hc : ∀ channel : Int, op = .readChannel channel → 0 ≤ channel ∧ channel ≤ 7) :
    exec op s = .next (runOperation op s) := by
  cases hd : displayEvents op with
  | some evs => exact exec_display op s evs hd hs ha
  | none =>
    cases op <;> simp [displayEvents, bytesOf] at hd
    case readChannel channel =>
      obtain ⟨hlow, hhigh⟩ := hc channel rfl
      have hlegal : ¬ (channel < 0 ∨ 7 < channel) := by omega
      simp only [exec, execReadChannel, hlegal, if_false]
      exact whenIdle_of_idle _ hs
    case adcCmd channel => exact whenIdle_of_idle _ hs
    all_goals exact absurd hlen (lt_irrefl 0)

/-- Settles O12, by induction on the events still to come. -/
theorem bigStepIsTheIteratedEventStep : Obligations.BigStepIsTheIteratedEventStep := by
  intro op s hs hlen ha hc
  obtain ⟨n, hn, hrun⟩ := run_of_runMicros (s := beginOperation op s) hlen rfl
  exact ⟨runOperation op s, n, exec_of_accepted hs hlen ha hc, hn, hrun⟩

/-- A call that ends its operation leaves SEQ Idle (rule R207). -/
theorem perform_ended_seq {m : Micro} {s s' : State} (hp : perform m s = .ended s') : s'.seq = .idle := by
  cases performed_of_eq hp <;> rfl

/-- Settles O13, by the four ways an event can leave the operation in progress. -/
theorem sequencerNeverSkipsOrGoesBack : Obligations.SequencerNeverSkipsOrGoesBack := by
  intro s t op k hs ht
  have ht : resume op k s = .next t := by rwa [step, hs] at ht
  rcases resume_cases op k s with ⟨-, e⟩ | ⟨m, hm, ⟨s', hp, -, e⟩ | ⟨s', hp, -, e⟩ | ⟨s', hp, e⟩ | ⟨s', hp, e⟩⟩ <;>
    rw [e] at ht <;> cases ht
  · exact .inr (.inl (conclude_cases op _).1)
  · exact .inl rfl
  · exact .inr (.inl (perform_ended_seq hp))
  · exact .inr (.inr (perform_hung hm hp))

end Sys2Proof.StateProofs
end

section
/-! The invariant: at reset, and kept by every step. -/

namespace Sys2Proof.StateProofs

open Sys2Proof.Machine Sys2Proof.Safety

/-- Settles O5, clause by clause from the literal state of reset. -/
theorem resetLeavesTheStateOfTheSpec : Obligations.ResetLeavesTheStateOfTheSpec := by
  have hlines : ∀ l : Line, State.reset.lvl.get l = .unknown := by intro l; cases l <;> rfl
  have hcfg : legalCfg State.reset.cfg := ⟨by decide, by decide, by decide⟩
  exact ⟨rfl, rfl, hlines, rfl, rfl, rfl, hcfg, rfl⟩

/-- Settles O6: at reset SEQ is Idle and LCDST is not Ready, so the clauses about an operation and about Ready speak of nothing. -/
theorem resetHasTheInvariant : Obligations.ResetHasTheInvariant where
  cells := wf_reset
  locals _ := rfl
  position _ _ h := by cases h
  written _ _ h := by cases h
  known h := by cases h
  enable h := by cases h

/-! ## The levels a list of steps drives -/

/-- The level one primitive call drives on a line. -/
def primDrives (l : Line) : Prim → Option Level
  | .pin l' v => if l' = l then some v else none
  | .transfer _ => none
  | .delay _ => none

theorem lastDriven_cons (l : Line) (m : Micro) (ms : List Micro) :
    lastDriven l (m :: ms) = (lastDriven l ms).or (primDrives l m.prim) := by
  cases h : lastDriven l ms <;> simp only [lastDriven, h] <;> cases m.prim <;> rfl

/-- What stands later in a list overrides what stands before it. -/
theorem lastDriven_append (l : Line) (as bs : List Micro) :
    lastDriven l (as ++ bs) = (lastDriven l bs).or (lastDriven l as) := by
  induction as with
  | nil => simp [lastDriven]
  | cons m ms ih => rw [List.cons_append, lastDriven_cons, lastDriven_cons, ih, Option.or_assoc]

theorem lastDriven_withWrites (l : Line) (ws : List LocalWrite) (ms : List Micro) :
    lastDriven l (withWrites ws ms) = lastDriven l ms := by
  cases ms <;> rfl

/-- One event more. -/
theorem lastDriven_take_succ {l : Line} {ms : List Micro} {k : Nat} {m : Micro} (h : ms[k]? = some m) :
    lastDriven l (ms.take (k + 1)) = (primDrives l m.prim).or (lastDriven l (ms.take k)) := by
  rw [List.take_add_one, lastDriven_append, h, Option.toList_some, lastDriven_cons]
  rfl

/-! E after a whole list of steps: not driven, or Low. -/

/-- A list of steps that does not leave E High. -/
def leavesELow (ms : List Micro) : Prop := lastDriven .e ms ≠ some .high

theorem leavesELow_nil : leavesELow [] := nofun

theorem leavesELow_append {as bs : List Micro} (ha : leavesELow as) (hb : leavesELow bs) : leavesELow (as ++ bs) := by
  unfold leavesELow at *
  rw [lastDriven_append]
  cases h : lastDriven .e bs with
  | none => exact ha
  | some v => rw [h] at hb; exact hb

theorem leavesELow_flatMap {α : Type} {f : α → List Micro} (hf : ∀ x, leavesELow (f x)) (xs : List α) :
    leavesELow (xs.flatMap f) := by
  induction xs with
  | nil => exact leavesELow_nil
  | cons x xs ih => rw [List.flatMap_cons]; exact leavesELow_append (hf x) ih

theorem leavesELow_putNibble (n : Nibble) : leavesELow (putNibblePlan n) := by
  revert n; exact bv4_cases (by unfold leavesELow; decide)

theorem leavesELow_strobe : leavesELow strobePlan := nofun

/-- SEND_BYTE ends with a strobe, and a strobe with E Low (rules R163, R167). -/
theorem leavesELow_sendByte (v : Byte) (isData : Bool) : leavesELow (sendBytePlan v isData) := by
  have hstrobe : lastDriven .e strobePlan = some .low := rfl
  unfold leavesELow sendBytePlan
  rw [lastDriven_append, hstrobe]
  exact nofun

/-- Whatever the operation, E is not High after its last event (rule R178). -/
theorem leavesELow_plan (op : Instr) : leavesELow (plan op) := by
  cases hd : displayEvents op with
  | none =>
    rcases plan_of_not_display hd with hp | ⟨channel, hp⟩ <;> rw [hp]
    · exact leavesELow_nil
    · exact nofun
  | some evs =>
    cases op <;> simp [displayEvents, bytesOf] at hd
    case lcdWriteLine text line =>
      exact leavesELow_append (leavesELow_flatMap (fun b => leavesELow_sendByte b false) _)
        (leavesELow_flatMap (fun b => leavesELow_sendByte b true) _)
    case putNibble n => exact leavesELow_putNibble n
    case strobe => exact leavesELow_strobe
    case lcdInit | lcdClear => exact leavesELow_flatMap (fun b => leavesELow_sendByte b false) _
    all_goals exact leavesELow_sendByte _ _

/-! LCD_INIT drives every line. -/

theorem putNibble_drives (n : Nibble) :
    ∀ l, l = .db0 ∨ l = .db1 ∨ l = .db2 ∨ l = .db3 → lastDriven l (putNibblePlan n) ≠ none := by
  have h : ∀ k : Nibble, lastDriven .db0 (putNibblePlan k) ≠ none ∧ lastDriven .db1 (putNibblePlan k) ≠ none ∧
      lastDriven .db2 (putNibblePlan k) ≠ none ∧ lastDriven .db3 (putNibblePlan k) ≠ none := bv4_cases (by decide)
  obtain ⟨h0, h1, h2, h3⟩ := h n
  rintro l (rfl | rfl | rfl | rfl) <;> assumption

/-- SEND_BYTE drives all six lines (rule R163). -/
theorem sendByte_drives (v : Byte) (isData : Bool) (l : Line) : lastDriven l (sendBytePlan v isData) ≠ none := by
  simp only [sendBytePlan, lastDriven_append, lastDriven_withWrites, ne_eq, Option.or_eq_none_iff, not_and]
  intro hstrobe hlow _ _
  cases l
  case rs => exact nofun
  case e => cases hstrobe
  all_goals exact absurd hlow (putNibble_drives _ _ (by simp))

theorem lcdInit_drives (l : Line) : lastDriven l (plan .lcdInit) ≠ none := by
  have h : plan .lcdInit = sendBytePlan 0x33 false ++ commandsPlan [0x32, 0x06, 0x0C, 0x28, 0x01] := rfl
  rw [h, lastDriven_append, ne_eq, Option.or_eq_none_iff, not_and]
  exact fun _ => sendByte_drives 0x33 false l

/-! ## The invariant along an operation -/

/-- What the invariant says of a state in which the first `k` events of an operation are done, wherever SEQ stands. -/
structure EventsDone (op : Instr) (k : Nat) (s : State) : Prop where
  cells : Memory.wf s.display.cells = true
  written : ∀ l v, lastDriven l ((plan op).take k) = some v → s.lvl.get l = driven v
  known : s.lcdst = .ready → ∀ l, s.lvl.get l ≠ .unknown
  enable : s.lcdst = .ready → lastDriven .e ((plan op).take k) = none → s.lvl.e = .low

/-- SEQ plays no part in it. -/
theorem eventsDone_seq {op : Instr} {k : Nat} {s : State} (q : Seq) (h : EventsDone op k s) :
    EventsDone op k { s with seq := q } where
  cells := h.cells
  written := h.written
  known := h.known
  enable := h.enable

theorem eventsDone_of_inv {op : Instr} {k : Nat} {s : State} (h : CoreInv s) (hs : s.seq = .busy op k) :
    EventsDone op k s where
  cells := h.cells
  written l v hl := h.written l v (by rw [hs]; exact hl)
  known := h.known
  enable hr he := h.enable hr (by rw [hs]; exact he)

theorem eventsDone_zero {s : State} (op : Instr) (h : CoreInv s) (hs : s.seq = .idle) :
    EventsDone op 0 (beginOperation op s) where
  cells := h.cells
  written _ _ hl := by cases hl
  known := h.known
  enable hr _ := h.enable hr (by rw [hs]; rfl)

theorem inv_of_eventsDone {op : Instr} {k : Nat} {s : State} (h : EventsDone op k s) (hs : s.seq = .busy op k)
    (hk : k < (plan op).length) : CoreInv s where
  cells := h.cells
  locals hi := by rw [hs] at hi; cases hi
  position op' k' hb := by rw [hs] at hb; cases hb; exact hk
  written l v hl := by rw [hs] at hl; exact h.written l v hl
  known := h.known
  enable hr he := by rw [hs] at he; exact h.enable hr he

/-- Between operations the clauses about the operation in progress speak of nothing. -/
theorem inv_of_idle {s : State} (hs : s.seq = .idle) (hl : s.locals = {}) (hc : Memory.wf s.display.cells = true)
    (hk : s.lcdst = .ready → ∀ l, s.lvl.get l ≠ .unknown) (he : s.lcdst = .ready → s.lvl.e = .low) : CoreInv s where
  cells := hc
  locals _ := hl
  position _ _ hb := by rw [hs] at hb; cases hb
  written _ _ hw := by rw [hs] at hw; cases hw
  known := hk
  enable hr _ := he hr

theorem inv_answer {s : State} (r : Response) (h : CoreInv s) (hs : s.seq = .idle) : CoreInv (answer r s) :=
  inv_of_idle rfl rfl h.cells h.known (fun hr => h.enable hr (by rw [hs]; rfl))

/-- A completed primitive call moves a line only where it drives it, and writes no LCDST (rules R11, R12, R53). -/
theorem perform_done_lines {m : Micro} {s s' : State} (hp : perform m s = .done s') :
    s'.lcdst = s.lcdst ∧ (Memory.wf s.display.cells = true → Memory.wf s'.display.cells = true) ∧
      ∀ l, s'.lvl.get l = ((primDrives l m.prim).map driven).getD (s.lvl.get l) := by
  cases performed_of_eq hp with
  | pinDone l v prim =>
    refine ⟨rfl, wf_observe _ _ _, fun l' => ?_⟩
    by_cases hl : l = l'
    · simp [prim, primDrives, hl]
    · simp [prim, primDrives, hl, Ne.symm hl]
  | delayDone d prim => exact ⟨rfl, wf_observe _ _ _, fun l => by rw [prim]; rfl⟩
  | busDone tx rx prim => exact ⟨rfl, id, fun l => by rw [prim]; rfl⟩

/-- One event more is done. -/
theorem eventsDone_succ {op : Instr} {k : Nat} {m : Micro} {s s' : State} (h : EventsDone op k s)
    (hm : (plan op)[k]? = some m) (hp : perform m s = .done s') : EventsDone op (k + 1) s' := by
  obtain ⟨hlcdst, hcells, hlines⟩ := perform_done_lines hp
  refine ⟨hcells h.cells, fun l v hl => ?_, fun hr l => ?_, fun hr he => ?_⟩
  · rw [lastDriven_take_succ hm] at hl
    rw [hlines]
    cases hd : primDrives l m.prim with
    | none => rw [hd] at hl; exact h.written l v hl
    | some v' => rw [hd] at hl; cases hl; rfl
  · rw [hlines]
    cases primDrives l m.prim with
    | none => exact h.known (hlcdst ▸ hr) l
    | some v' => exact driven_ne_unknown v'
  · rw [lastDriven_take_succ hm, Option.or_eq_none_iff] at he
    have hE : s'.lvl.get .e = s.lvl.get .e := by rw [hlines, he.1]; rfl
    exact hE.trans (h.enable (hlcdst ▸ hr) he.2)

/-- After the last event E is Low: the operation lowered it last, or never drove it. -/
theorem enable_of_allDone {op : Instr} {s : State} (h : EventsDone op (plan op).length s)
    (hr : s.lcdst = .ready ∨ op = .lcdInit) : s.lvl.e = .low := by
  have hall : (plan op).take (plan op).length = plan op := List.take_length
  cases he : lastDriven .e (plan op) with
  | some v =>
    cases v with
    | low => exact h.written .e .low (by rw [hall, he])
    | high => exact absurd he (leavesELow_plan op)
  | none =>
    rcases hr with hr | rfl
    · exact h.enable hr (by rw [hall, he])
    · exact absurd he (lcdInit_drives .e)

/-- LCD_INIT, which alone makes LCDST Ready, has driven every line by then (rules R172, R178). -/
theorem known_of_allDone {op : Instr} {s : State} (h : EventsDone op (plan op).length s)
    (hr : s.lcdst = .ready ∨ op = .lcdInit) (l : Line) : s.lvl.get l ≠ .unknown := by
  rcases hr with hr | rfl
  · exact h.known hr l
  · cases hd : lastDriven l (plan .lcdInit) with
    | none => exact absurd hd (lcdInit_drives l)
    | some v =>
      rw [h.written l v (by rw [List.take_length, hd])]
      exact driven_ne_unknown v

theorem ready_conclude {op : Instr} {s : State} (h : (conclude op s).lcdst = .ready) :
    s.lcdst = .ready ∨ op = .lcdInit := by
  rw [conclude_lcdst] at h
  split at h
  · exact .inr ‹_›
  · exact .inl h

theorem inv_conclude {op : Instr} {s : State} (h : EventsDone op (plan op).length s) : CoreInv (conclude op s) := by
  obtain ⟨hseq, hlocals, hlvl, -, -, -, -, -, hdisplay⟩ := conclude_cases op s
  refine inv_of_idle hseq hlocals (by rw [hdisplay]; exact h.cells) (fun hr l => ?_) (fun hr => ?_) <;> rw [hlvl]
  · exact known_of_allDone h (ready_conclude hr) l
  · exact enable_of_allDone h (ready_conclude hr)

/-- A failing call ends the operation in a state with the invariant: after a failed pin write LCDST is not Ready (rule R177), and a failed
exchange has driven no line. -/
theorem inv_ended {op : Instr} {k : Nat} {m : Micro} {s s' : State} (h : EventsDone op k s)
    (hm : (plan op)[k]? = some m) (hp : perform m s = .ended s') : CoreInv s' := by
  cases performed_of_eq hp with
  | pinFailed l v prim => exact inv_of_idle rfl rfl (wf_observe _ _ _ h.cells) nofun nofun
  | busFailed tx prim =>
    obtain ⟨rfl, -⟩ := plan_transfer hm prim
    exact inv_of_idle rfl rfl h.cells h.known (fun hr => h.enable hr rfl)

/-- The operation in progress keeps the invariant, one event at a time. -/
theorem inv_resume {op : Instr} {k : Nat} {s t : State} (h : CoreInv s) (hs : s.seq = .busy op k)
    (ht : resume op k s = .next t) : CoreInv t := by
  have hk := eventsDone_of_inv h hs
  rcases resume_cases op k s with ⟨-, e⟩ | ⟨m, hm, ⟨s', hp, hlen, e⟩ | ⟨s', hp, hlen, e⟩ | ⟨s', hp, e⟩ | ⟨s', hp, e⟩⟩ <;>
    rw [e] at ht <;> cases ht
  · exact inv_conclude (hlen ▸ eventsDone_seq _ (eventsDone_succ hk hm hp))
  · exact inv_of_eventsDone (eventsDone_seq _ (eventsDone_succ hk hm hp)) rfl hlen
  · exact inv_ended hk hm hp
  · rw [perform_hung hm hp]; exact h

/-- A whole operation keeps the invariant. -/
theorem inv_runOperation {s : State} (op : Instr) (h : CoreInv s) (hs : s.seq = .idle) : CoreInv (runOperation op s) := by
  have h0 := eventsDone_zero op h hs
  cases hp : plan op with
  | nil =>
    rw [runOperation, hp]
    exact inv_conclude (by rw [hp]; exact h0)
  | cons m ms =>
    have hlen : 0 < (plan op).length := by simp [hp]
    exact runMicros_induction (fun k u v hu hseq hv => inv_resume hu hseq hv) hlen
      (inv_of_eventsDone h0 rfl hlen) rfl

/-- Settles O7: an operation in progress, a waiting core, and a request that is answered or run. -/
theorem stepKeepsTheInvariant : Obligations.StepKeepsTheInvariant := by
  intro s t h ht
  rcases step_cases s with ⟨op, k, hs, e⟩ | ⟨-, -, e⟩ | ⟨p, rest, i, hs, -, -, e⟩ | ⟨p, rest, err, -, -, -, e⟩ <;>
    rw [e] at ht
  · exact inv_resume h hs ht
  · cases ht; exact h
  · have h' : CoreInv { s with inbox := rest } := ⟨h.cells, h.locals, h.position, h.written, h.known, h.enable⟩
    obtain ⟨-, ⟨r, rfl⟩ | rfl⟩ := exec_next ht
    · exact inv_answer r h' hs
    · exact inv_runOperation i h' hs
  · cases ht

end Sys2Proof.StateProofs
end

section
/-! What the core and the display know of each other: the core cannot see the display (rule R17), and only display operations move
LCDST, the lines and the display. -/

namespace Sys2Proof.StateProofs

open Sys2Proof.Machine Sys2Proof.Safety

/-! ## Another display in the state -/

/-- The same core, outputs and scripts with another display. -/
def withDisplay (d : Display) (s : State) : State := { s with display := d }

/-- One primitive call with another display on the lines: the same call, and some display after it. -/
def progressWithDisplay (d : Display) : Progress → Progress
  | .done s => .done (withDisplay d s)
  | .ended s => .ended (withDisplay d s)
  | .hung s => .hung (withDisplay d s)

theorem pinSet_withDisplay (l : Line) (v : Level) (d : Display) (s : State) :
    ∃ d', pinSet l v (withDisplay d s) = progressWithDisplay d' (pinSet l v s) := by
  have hpins : (withDisplay d s).pins.head = s.pins.head := rfl
  unfold pinSet
  rw [hpins]
  cases s.pins.head <;> exact ⟨_, rfl⟩

theorem busTransfer_withDisplay (tx : Frame) (d : Display) (s : State) :
    ∃ d', busTransfer tx (withDisplay d s) = progressWithDisplay d' (busTransfer tx s) := by
  rcases busTransfer_cases tx s with ⟨b0, b1, b2, h, e⟩ | ⟨h, e⟩ | ⟨h, e⟩ <;> rw [e]
  · exact ⟨_, busTransfer_returns (s := withDisplay d s) tx h⟩
  · exact ⟨_, busTransfer_fails (s := withDisplay d s) tx h⟩
  · exact ⟨_, busTransfer_never (s := withDisplay d s) tx h⟩

theorem perform_withDisplay (m : Micro) (d : Display) (s : State) :
    ∃ d', perform m (withDisplay d s) = progressWithDisplay d' (perform m s) := by
  obtain ⟨ws, p⟩ := m
  cases p with
  | transfer tx => exact busTransfer_withDisplay tx d (writeLocals ws s)
  | pin l v => exact pinSet_withDisplay l v d (writeLocals ws s)
  | delay k => exact ⟨_, rfl⟩

theorem conclude_withDisplay (op : Instr) (d : Display) (s : State) :
    conclude op (withDisplay d s) = withDisplay d (conclude op s) := by
  unfold conclude
  cases ending op
  case answersSample =>
    have hrxf : (withDisplay d s).locals.rxf = s.locals.rxf := rfl
    simp only [answerSample, hrxf]
    cases s.locals.rxf <;> rfl
  all_goals rfl

theorem runMicros_withDisplay (op : Instr) (k : Nat) (ms : List Micro) (d : Display) (s : State) :
    ∃ d', runMicros op k ms (withDisplay d s) = withDisplay d' (runMicros op k ms s) := by
  induction ms generalizing k d s with
  | nil => exact ⟨d, conclude_withDisplay op d s⟩
  | cons m ms ih =>
    obtain ⟨d', hd'⟩ := perform_withDisplay m d s
    rw [runMicros, runMicros, hd']
    cases perform m s with
    | done s' => exact ih (k + 1) d' { s' with seq := .busy op (k + 1) }
    | ended s' => exact ⟨d', rfl⟩
    | hung s' => exact ⟨d', rfl⟩

/-- The same next state but for the display, or the same refusal. -/
def sameButDisplay (o o' : Host.Outcome State Fault Refusal) : Prop :=
  (∃ t d', o = .next t ∧ o' = .next (withDisplay d' t)) ∨ ∃ r, o = .refused r ∧ o' = .refused r

theorem whenIdle_withDisplay {t t' : State} (d : Display) (s : State) (h : ∃ d', t' = withDisplay d' t) :
    sameButDisplay (whenIdle s t) (whenIdle (withDisplay d s) t') := by
  obtain ⟨d', rfl⟩ := h
  cases hs : s.seq with
  | idle => exact .inl ⟨t, d', whenIdle_of_idle _ hs, whenIdle_of_idle (s := withDisplay d s) _ hs⟩
  | busy op k =>
    exact .inr ⟨_, whenIdle_of_busy _ hs, whenIdle_of_busy (s := withDisplay d s) _ hs⟩

/-- The course of an instruction does not depend on the display, and each course goes the same way with any display. -/
theorem exec_withDisplay (i : Instr) (d : Display) (s : State) :
    sameButDisplay (exec i s) (exec i (withDisplay d s)) := by
  have hcourse : course (withDisplay d s).lcdst (withDisplay d s).cfg.roundMode i =
      course s.lcdst s.cfg.roundMode i := rfl
  rw [exec_eq_outcome, exec_eq_outcome, hcourse]
  cases course s.lcdst s.cfg.roundMode i with
  | responds r => exact whenIdle_withDisplay d s ⟨d, rfl⟩
  | runs => exact whenIdle_withDisplay d s (runMicros_withDisplay i 0 (plan i) d (beginOperation i s))
  | reserved code => exact .inr ⟨.reservedStatus code, rfl, rfl⟩

/-- Settles O50, course by course. -/
theorem coreCannotSeeTheDisplay : Obligations.CoreCannotSeeTheDisplay := by
  intro i s d
  rcases exec_withDisplay i d s with ⟨t, d', h, h'⟩ | ⟨r, h, h'⟩ <;> rw [h]
  · refine ⟨fun t' ht => ?_, fun r hr => ?_, fun f hf => ?_⟩
    · cases ht
      exact ⟨d', h'⟩
    · cases hr
    · cases hf
  · refine ⟨fun t' ht => ?_, fun r' hr => ?_, fun f hf => ?_⟩
    · cases ht
    · cases hr
      exact h'
    · cases hf

/-! ## Operations of the other units -/

/-- Two states agree on LCDST, the lines, the pins, CFG, the inbox and the display. -/
structure SameDriver (s t : State) : Prop where
  lcdst : t.lcdst = s.lcdst
  lvl : t.lvl = s.lvl
  pins : t.pins = s.pins
  cfg : t.cfg = s.cfg
  inbox : t.inbox = s.inbox
  display : t.display = s.display

theorem sameDriver_conclude {op : Instr} {s u : State} (h : op ≠ .lcdInit) (hu : SameDriver s u) :
    SameDriver s (conclude op u) := by
  obtain ⟨-, -, hlvl, hcfg, -, hinbox, -, hpins, hdisplay⟩ := conclude_cases op u
  have hlcdst : (conclude op u).lcdst = u.lcdst := by rw [conclude_lcdst, if_neg h]
  exact ⟨hlcdst.trans hu.lcdst, hlvl.trans hu.lvl, hpins.trans hu.pins, hcfg.trans hu.cfg, hinbox.trans hu.inbox,
    hdisplay.trans hu.display⟩

/-- An operation of another unit is at most one exchange, and an exchange writes none of these, however it ends. -/
theorem sameDriver_runOperation {i : Instr} (h : displayEvents i = none) (s : State) :
    SameDriver s (runOperation i s) := by
  have hi : i ≠ .lcdInit := by rintro rfl; cases h
  rcases plan_of_not_display h with hp | ⟨channel, hp⟩ <;> rw [runOperation, hp]
  · exact sameDriver_conclude hi ⟨rfl, rfl, rfl, rfl, rfl, rfl⟩
  · rw [transferPlan, runMicros, perform_transfer]
    rcases busTransfer_cases (commandFrame channel) (beginOperation i s) with ⟨b0, b1, b2, -, e⟩ | ⟨-, e⟩ | ⟨-, e⟩ <;>
      rw [e]
    · exact sameDriver_conclude hi ⟨rfl, rfl, rfl, rfl, rfl, rfl⟩
    · exact ⟨rfl, rfl, rfl, rfl, rfl, rfl⟩
    · exact ⟨rfl, rfl, rfl, rfl, rfl, rfl⟩

theorem sameDriver_exec {i : Instr} {s t : State} (h : displayEvents i = none) (ht : exec i s = .next t) :
    SameDriver s t := by
  obtain ⟨-, ⟨r, rfl⟩ | rfl⟩ := exec_next ht
  · exact ⟨rfl, rfl, rfl, rfl, rfl, rfl⟩
  · exact sameDriver_runOperation h s

/-- Settles O51: what is no display operation answers, or makes at most one exchange. -/
theorem otherUnitsLeaveTheDisplayAlone : Obligations.OtherUnitsLeaveTheDisplayAlone := by
  intro i s t h ht
  obtain ⟨hlcdst, hlvl, hpins, hcfg, hinbox, hdisplay⟩ := sameDriver_exec h ht
  exact ⟨hlcdst, hlvl, hpins, hcfg, hinbox, fun a => by rw [hdisplay]⟩

/-! ## LCDST -/

/-- How a list of events can leave LCDST: as it was, or as its last event, a failed pin write, leaves it, or as the operation's ending
does. -/
theorem runMicros_lcdst (op : Instr) (k : Nat) (ms : List Micro) (s : State) :
    (runMicros op k ms s).lcdst = s.lcdst ∨
      (∃ u, runMicros op k ms s = conclude op u ∧ u.responses = s.responses ∧ u.lcdst = s.lcdst) ∨
      ∃ l v u, runMicros op k ms s = raise .pinFailure (pinSetFailed l v u) ∧ u.responses = s.responses := by
  induction ms generalizing k s with
  | nil => exact .inr (.inl ⟨s, rfl, rfl, rfl⟩)
  | cons m ms ih =>
    rw [runMicros]
    generalize hp : perform m s = p
    cases performed_of_eq hp with
    | pinFailed l v prim => exact .inr (.inr ⟨l, v, _, rfl, rfl⟩)
    | busFailed tx prim | busHung tx prim => exact .inl rfl
    | pinDone l v prim | delayDone d prim | busDone tx rx prim => exact ih (k + 1) _

/-- Settles O52, by the three ways a list of events can leave LCDST. -/
theorem driverStateChangesInTwoWays : Obligations.DriverStateChangesInTwoWays := by
  intro i s t ht hne
  have hdisplay : (displayEvents i).isSome = true := by
    rw [Option.isSome_iff_ne_none]
    exact fun hn => hne (sameDriver_exec hn ht).lcdst
  obtain ⟨-, ⟨r, rfl⟩ | rfl⟩ := exec_next ht
  · exact absurd rfl hne
  · rcases runMicros_lcdst i 0 (plan i) (beginOperation i s) with e | ⟨u, e, hresp, hlcdst⟩ | ⟨l, v, u, e, hresp⟩
    · exact absurd e hne
    · rw [runOperation, e] at hne ⊢
      rw [conclude_lcdst, hlcdst] at hne
      by_cases hi : i = .lcdInit
      · subst hi
        refine .inl ⟨rfl, rfl, ?_⟩
        exact congrArg (· ++ [Response.ok .none]) hresp
      · rw [if_neg hi] at hne
        exact absurd rfl hne
    · rw [runOperation, e]
      refine .inr ⟨hdisplay, rfl, congrArg (· ++ [Response.failed .pinFailure]) hresp, l, v, ?_⟩
      simp

end Sys2Proof.StateProofs
end

section
/-! Memory and ordering, the core's side: a busy core takes no request (rule R56), outputs are only added to (rule R54), and the
converter behind the bus (rules R46 to R49). -/

namespace Sys2Proof.MemoryProofs

open Sys2Proof.Machine Sys2Proof.Safety Sys2Proof.StateProofs

/-! ## A busy core -/

/-- The reserved statuses are responses: no request takes their course (rules R83, R84). -/
theorem course_of_hostOperation {i : Instr} (h : hostOperation i = true) (lcdst : LcdState) (mode : RoundMode)
    (code : Nat) : course lcdst mode i ≠ .reserved code := by
  cases i
  case readChannel channel => simp only [course]; split <;> exact nofun
  case convert sample model places => simp only [course]; split <;> exact nofun
  case lcdClear | lcdWriteLine => cases lcdst <;> exact nofun
  case lcdInit | reservedOpc5 | reservedOpc6 | reservedOpc7 => exact nofun
  all_goals exact absurd h Bool.false_ne_true

/-- Settles O11: every course but a reserved status waits for SEQ Idle. -/
theorem overlappingRequestIsRefused : Obligations.OverlappingRequestIsRefused := by
  intro s op k i hs hi
  rw [exec_eq_outcome]
  cases hc : course s.lcdst s.cfg.roundMode i with
  | responds r => exact whenIdle_of_busy _ hs
  | runs => exact whenIdle_of_busy _ hs
  | reserved code => exact absurd hc (course_of_hostOperation hi _ _ code)

/-! ## The outputs -/

/-- The trace and the responses of `t` begin with those of `s`, and CFG is the same (rules R13, R54). -/
def Extends (s t : State) : Prop :=
  s.trace <+: t.trace ∧ s.responses <+: t.responses ∧ t.cfg = s.cfg

theorem extends_refl (s : State) : Extends s s := ⟨List.prefix_rfl, List.prefix_rfl, rfl⟩

theorem extends_trans {s t u : State} (h : Extends s t) (h' : Extends t u) : Extends s u := by
  obtain ⟨htrace, hresponses, hcfg⟩ := h
  obtain ⟨htrace', hresponses', hcfg'⟩ := h'
  exact ⟨htrace.trans htrace', hresponses.trans hresponses', hcfg'.trans hcfg⟩

theorem extends_answer (r : Response) (s : State) : Extends s (answer r s) :=
  ⟨List.prefix_rfl, List.prefix_append _ _, rfl⟩

/-- The state a primitive call leaves, however it left the operation. -/
def stateOf : Progress → State
  | .done s => s
  | .ended s => s
  | .hung s => s

/-- One primitive call adds at most one event, and one answer where it fails. -/
theorem extends_perform (m : Micro) (s : State) : Extends s (stateOf (perform m s)) := by
  generalize hp : perform m s = p
  cases performed_of_eq hp with
  | pinDone | delayDone | busDone => exact ⟨List.prefix_append _ _, List.prefix_rfl, rfl⟩
  | pinFailed | busFailed => exact ⟨List.prefix_append _ _, List.prefix_append _ _, rfl⟩
  | busHung => exact ⟨List.prefix_rfl, List.prefix_rfl, rfl⟩

/-- The end of an operation adds at most its answer. -/
theorem extends_conclude (op : Instr) (s : State) : Extends s (conclude op s) := by
  unfold conclude
  split
  · unfold answerSample
    split
    · exact extends_refl s
    · exact extends_answer _ s
  · exact extends_answer _ s
  · exact extends_answer _ s
  · exact extends_refl s

theorem extends_runMicros (op : Instr) (k : Nat) (ms : List Micro) (s : State) :
    Extends s (runMicros op k ms s) := by
  induction ms generalizing k s with
  | nil => exact extends_conclude op s
  | cons m ms ih =>
    have hm := extends_perform m s
    rw [runMicros]
    cases hp : perform m s <;> rw [hp] at hm
    case done t => exact extends_trans hm (ih (k + 1) { t with seq := .busy op (k + 1) })
    case ended | hung => exact hm

theorem extends_resume {op : Instr} {k : Nat} {s t : State} (ht : resume op k s = .next t) : Extends s t := by
  rcases resume_cases op k s with ⟨-, e⟩ | ⟨m, -, hcases⟩
  · rw [e] at ht; cases ht
  have hm := extends_perform m s
  rcases hcases with ⟨u, hp, -, e⟩ | ⟨u, hp, -, e⟩ | ⟨u, hp, e⟩ | ⟨u, hp, e⟩ <;>
    rw [e] at ht <;> rw [hp] at hm <;> cases ht
  · exact extends_trans hm (extends_conclude op { u with seq := .busy op (k + 1) })
  · exact hm
  · exact hm
  · exact hm

theorem extends_exec {i : Instr} {s t : State} (ht : exec i s = .next t) : Extends s t := by
  obtain ⟨-, ⟨r, rfl⟩ | rfl⟩ := exec_next ht
  · exact extends_answer r s
  · exact extends_runMicros i 0 (plan i) (beginOperation i s)

theorem extends_step {s t : State} (ht : step s = .next t) : Extends s t := by
  rcases step_cases s with ⟨op, k, -, e⟩ | ⟨-, -, e⟩ | ⟨p, rest, i, -, -, -, e⟩ | ⟨p, rest, err, -, -, -, e⟩ <;>
    rw [e] at ht
  · exact extends_resume ht
  · cases ht; exact extends_refl s
  · exact extends_exec (s := { s with inbox := rest }) ht
  · cases ht

/-- Settles O15: every step extends the outputs. -/
theorem stepOnlyAddsToTheOutputs : Obligations.StepOnlyAddsToTheOutputs := by
  intro s t ht
  obtain ⟨⟨evs, htrace⟩, ⟨rs, hresponses⟩, hcfg⟩ := extends_step ht
  exact ⟨⟨evs, htrace.symm⟩, ⟨rs, hresponses.symm⟩, hcfg⟩

/-! ## The exchange -/

/-- The frame of a three-bit channel, in the numbers of rule R71's pattern. -/
theorem commandFrame_eq (channel : BitVec 3) :
    commandFrame channel.toNat = ⟨0x01, BitVec.ofNat 8 (0x80 + 16 * channel.toNat), 0x00⟩ := by
  have hall : ∀ c : Fin 8, commandFrame (c : Nat) = ⟨0x01, BitVec.ofNat 8 (0x80 + 16 * (c : Nat)), 0x00⟩ := by decide
  exact hall channel.toFin

/-- An operation of one exchange is what the bus makes of its frame. -/
theorem runOperation_transfer {op : Instr} {channel : Int} (hplan : plan op = transferPlan channel) (s : State) :
    runOperation op s =
      match busTransfer (commandFrame channel) (beginOperation op s) with
      | .done t => conclude op { t with seq := .busy op 1 }
      | .ended t => t
      | .hung t => t := by
  rw [runOperation, hplan, transferPlan, runMicros, perform_transfer]
  cases busTransfer (commandFrame channel) (beginOperation op s) <;> rfl

/-- An exchange that hangs is a step to the same state (rule R119). -/
theorem step_of_hung {op : Instr} {channel : Int} {s : State} (hplan : plan op = transferPlan channel)
    (hs : s.seq = .busy op 0) (hbus : s.bus.head = .never) : step s = .next s := by
  have hp : perform (plain (.transfer (commandFrame channel))) s = .hung s := busTransfer_never _ hbus
  have hm : (plan op)[0]? = some (plain (.transfer (commandFrame channel))) := by rw [hplan]; rfl
  rw [step, hs]
  simp only [resume, hm, hp]

/-- A state that steps to itself stays, however long the run. -/
theorem core_run_of_fixed {s : State} (h : step s = .next s) (n : Nat) :
    Host.Core.run Sys2Proof.core n s = .next s := by
  induction n with
  | zero => rfl
  | succ n ih => rw [core_run_succ h, ih]

/-- Settles O23, by what the bus makes of the one exchange. -/
theorem commandFrameFailsOrHangsWithTheBus : Obligations.CommandFrameFailsOrHangsWithTheBus := by
  intro s channel rx hs
  have hexec : exec (.adcCmd channel) s = .next (runOperation (.adcCmd channel) s) := whenIdle_of_idle _ hs
  have hplan : plan (.adcCmd channel) = transferPlan channel.toNat := rfl
  refine ⟨fun hbus => ?_, fun hbus => ?_⟩
  · have hfails : (beginOperation (.adcCmd channel) s).bus.head = .fails ∨
        ∃ rx, (beginOperation (.adcCmd channel) s).bus.head = .returns rx ∧ rx.length ≠ 3 :=
      hbus.imp_right fun h => ⟨rx, h⟩
    rw [hexec, runOperation_transfer hplan, busTransfer_fails _ hfails, commandFrame_eq]
    simp only [hs]
    rfl
  · have hnever : (beginOperation (.adcCmd channel) s).bus.head = .never := hbus
    refine ⟨beginOperation (.adcCmd channel) s, ?_, rfl, rfl, core_run_of_fixed (step_of_hung hplan rfl hnever)⟩
    rw [hexec, runOperation_transfer hplan, busTransfer_never _ hnever]

/-! ## The converter -/

/-- The command frame of a legal channel decodes to the channel (rules R71, R72). -/
theorem decode_commandFrame {channel : Int} (hlow : 0 ≤ channel) (hhigh : channel ≤ 7) :
    decode ⟨.adcCmd, [(commandFrame channel).b0, (commandFrame channel).b1, (commandFrame channel).b2]⟩ =
      .ok (.adcCmd (BitVec.ofInt 3 channel)) := by
  interval_cases channel <;> rfl

/-- The converter answers every legal channel's frame (rule R48). -/
theorem converterAnswer_commandFrame {channel : Int} (hlow : 0 ≤ channel) (hhigh : channel ≤ 7)
    (inputs : BitVec 3 → Sample) (noise : BitVec 14) :
    converterAnswer inputs noise (commandFrame channel) =
      some (converterResponse (inputs (BitVec.ofInt 3 channel)) noise) := by
  rw [converterAnswer, decode_commandFrame hlow hhigh]

/-- The low two bits of the converter's second byte are the top two of the code (rules R48, R49). -/
theorem converterResponse_b1 (code : Sample) (noise : BitVec 14) {i : Nat} (hi : i < 2) :
    (converterResponse code noise).b1.getLsbD i = code.getLsbD (8 + i) := by
  have happend := BitVec.getLsbD_append (x := noise.extractLsb' 0 6) (y := code.extractLsb' 8 2) (i := i)
  rw [if_pos hi, BitVec.getLsbD_extractLsb'] at happend
  exact happend.trans (by simp [hi])

/-- The core reads the code out of the converter's response, whatever the unused bits hold (rules R49, R74, R117). -/
theorem assembleSample_converterResponse (code : Sample) (noise : BitVec 14) :
    assembleSample (converterResponse code noise) = code := by
  apply BitVec.eq_of_getLsbD_eq
  intro i hi
  by_cases hlow : i < 8
  · simp [assembleSample, converterResponse, hlow, hi]
  · obtain ⟨j, rfl⟩ := Nat.exists_eq_add_of_le (Nat.le_of_not_lt hlow)
    have hj : j < 2 := by omega
    rw [← converterResponse_b1 code noise hj]
    interval_cases j <;> simp [assembleSample, converterResponse]

/-- READ_CHANNEL of a legal channel answers the sample in the bytes the bus returns (rules R113, R114). -/
theorem exec_readChannel_responses {s : State} {channel : Int} {b0 b1 b2 : Byte} (hs : s.seq = .idle)
    (hlow : 0 ≤ channel) (hhigh : channel ≤ 7) (hbus : s.bus.head = .returns [b0, b1, b2]) :
    ∃ t, exec (.readChannel channel) s = .next t ∧
      t.responses = s.responses ++ [.ok (.sample (assembleSample ⟨b0, b1, b2⟩))] := by
  have hplan : plan (.readChannel channel) = transferPlan channel := rfl
  have hlegal : ∀ c : Int, Instr.readChannel channel = .readChannel c → 0 ≤ c ∧ c ≤ 7 := by
    rintro c ⟨⟩; exact ⟨hlow, hhigh⟩
  refine ⟨_, exec_of_accepted hs Nat.zero_lt_one trivial hlegal, ?_⟩
  rw [runOperation_transfer hplan,
    busTransfer_returns (s := beginOperation (.readChannel channel) s) (commandFrame channel) hbus]
  rfl

/-- Settles O21: the converter understands the frame, and the core understands its answer. -/
theorem readChannelAnswersTheConvertersCode : Obligations.ReadChannelAnswersTheConvertersCode := by
  intro channel inputs noise hlow hhigh
  refine ⟨_, converterAnswer_commandFrame hlow hhigh inputs noise, fun s hs hbus => ?_⟩
  obtain ⟨t, ht, hresponses⟩ := exec_readChannel_responses hs hlow hhigh hbus
  refine ⟨t, ht, hresponses.trans ?_⟩
  rw [assembleSample_converterResponse]

end Sys2Proof.MemoryProofs
end

section
/-! Memory and ordering, the lines' side: what a watcher of the six lines tells from a list of events (rules R77 to R79), and what the
reference display makes of one byte (rules R50, R51). -/

namespace Sys2Proof.MemoryProofs

open Sys2Proof.Machine Sys2Proof.Safety

/-! ## A completed display operation -/

/-- What a display operation leaves when every pin write is allowed: its events, and what the display saw of them. -/
theorem exec_display_completes {i : Instr} {s : State} {evs : List Event} (hi : displayEvents i = some evs)
    (hs : s.seq = .idle) (ha : accepted i s) (hp : pinsAllow (pinWrites evs) s.pins = true) :
    ∃ t, exec i s = .next t ∧ newEvents s t = evs ∧ t.display = watch s.lvl evs s.display := by
  obtain ⟨hevents, hnoTransfer⟩ := plan_events i evs hi
  obtain ⟨q, l, hrun⟩ := runMicros_success i 0 (plan i) (beginOperation i s) hnoTransfer (by rw [hevents]; exact hp)
  refine ⟨runOperation i s, exec_display i s evs hi hs ha, ?_⟩
  rw [runOperation, hrun, hevents]
  obtain ⟨-, -, -, -, htrace, -, -, -, hdisplay⟩ := conclude_cases i { beginOperation i s with
    trace := s.trace ++ evs
    lvl := linesAfter s.lvl evs
    pins := s.pins.skip (pinWrites evs)
    display := watch s.lvl evs s.display
    seq := q
    locals := l }
  refine ⟨?_, hdisplay⟩
  exact (congrArg (List.drop s.trace.length) htrace).trans (List.drop_left)

/-! ## Lists of events, one after the other -/

theorem linesAfter_append (lv : Levels) (as bs : List Event) :
    linesAfter lv (as ++ bs) = linesAfter (linesAfter lv as) bs := List.foldl_append

theorem watch_append (lv : Levels) (as bs : List Event) (d : Display) :
    watch lv (as ++ bs) d = watch (linesAfter lv as) bs (watch lv as d) := by
  induction as generalizing lv d with
  | nil => rfl
  | cons ev as ih => exact ih (linesStep lv ev) (d.observe (linesStep lv ev) ev)

/-- What the watcher sees at one event: the lines, at a lowering of E. -/
theorem nibblesOnWire_cons (lv : Levels) (ev : Event) (evs : List Event) :
    nibblesOnWire lv (ev :: evs) = nibblesOnWire lv [ev] ++ nibblesOnWire (linesStep lv ev) evs := by
  by_cases h : ev = .set .e .low
  · subst h; rfl
  · simp [nibblesOnWire]

theorem nibblesOnWire_append (lv : Levels) (as bs : List Event) :
    nibblesOnWire lv (as ++ bs) = nibblesOnWire lv as ++ nibblesOnWire (linesAfter lv as) bs := by
  induction as generalizing lv with
  | nil => rfl
  | cons ev as ih =>
    rw [List.cons_append, nibblesOnWire_cons, ih, ← List.append_assoc, ← nibblesOnWire_cons]
    rfl

/-! ## The writes before a strobe -/

/-- A write of RS or of a data line. -/
def writesLine : Event → Bool
  | .set .e _ => false
  | .set _ _ => true
  | _ => false

theorem nibbleEvents_writesLine (n : Nibble) : (nibbleEvents n).all writesLine = true := by
  revert n; exact bv4_cases (by decide)

theorem writesLine_iff {ev : Event} : writesLine ev = true ↔ ∃ l v, ev = .set l v ∧ l ≠ .e := by
  constructor
  · intro h
    cases ev with
    | set l v => exact ⟨l, v, rfl, by rintro rfl; cases h⟩
    | xfer | xferFail | setFail | dly => cases h
  · rintro ⟨l, v, rfl, hl⟩
    cases l
    case e => exact absurd rfl hl
    all_goals rfl

/-- At a write of any line but E the display does one and the same (rule R51). -/
theorem observe_set {l : Line} (hl : l ≠ .e) (v : Level) (lv : Levels) (d : Display) :
    d.observe lv (.set l v) = d.seeLine := by
  cases l
  case e => exact absurd rfl hl
  all_goals rfl

/-- Outside a strobe the display takes line writes without harm, and waits to see the lines settled (rule R51). -/
theorem observe_writesLine {ev : Event} (h : writesLine ev = true) (lv : Levels) {d : Display}
    (hd : d.strobe = .unsettled ∨ d.strobe = .settled) : d.observe lv ev = { d with strobe := .unsettled } := by
  obtain ⟨l, v, rfl, hl⟩ := writesLine_iff.1 h
  rw [observe_set hl]
  obtain ⟨cells, cursor, half, strobe, sync⟩ := d
  rcases hd with hd | hd <;> cases hd <;> rfl

theorem watch_writesLine {evs : List Event} (h : evs.all writesLine = true) (lv : Levels) {d : Display}
    (hd : d.strobe = .unsettled) : watch lv evs d = d := by
  induction evs generalizing lv with
  | nil => rfl
  | cons ev evs ih =>
    rw [List.all_cons, Bool.and_eq_true] at h
    rw [watch, observe_writesLine h.1 _ (.inl hd), ← hd]
    exact ih h.2 _

/-- No nibble is taken at a line write. -/
theorem nibblesOnWire_writesLine {evs : List Event} (h : evs.all writesLine = true) (lv : Levels) :
    nibblesOnWire lv evs = [] := by
  induction evs generalizing lv with
  | nil => rfl
  | cons ev evs ih =>
    rw [List.all_cons, Bool.and_eq_true] at h
    obtain ⟨l, v, rfl, hl⟩ := writesLine_iff.1 h.1
    rw [nibblesOnWire_cons, ih h.2]
    simp [nibblesOnWire, hl]

/-! ## The lines at a strobe -/

/-- The lines with a nibble on DB3 to DB0 (rule R78). -/
def withNibble (n : Nibble) (lv : Levels) : Levels :=
  { lv with
    db0 := driven (levelOf (n.getLsbD 0)), db1 := driven (levelOf (n.getLsbD 1))
    db2 := driven (levelOf (n.getLsbD 2)), db3 := driven (levelOf (n.getLsbD 3)) }

/-- The order of the writes in R165's table does not matter to what stands on the lines after them. -/
theorem linesAfter_nibbleEvents (n : Nibble) (lv : Levels) : linesAfter lv (nibbleEvents n) = withNibble n lv := by
  revert n
  refine bv4_cases fun k => ?_
  fin_cases k <;> rfl

theorem linesAfter_strobeEvents (lv : Levels) : linesAfter lv strobeEvents = { lv with e := .low } := rfl

theorem lineBit_driven (b : Bool) : lineBit (driven (levelOf b)) = some b := by cases b <;> rfl

theorem nibbleOnLines_withNibble (n : Nibble) (lv : Levels) : nibbleOnLines (withNibble n lv) = some n := by
  simp only [nibbleOnLines, withNibble, lineBit_driven]
  revert n
  exact bv4_cases (by decide)

theorem lineBit_withNibble_rs {rs : Bool} {lv : Levels} (n : Nibble) (h : lv.rs = driven (rsLevel rs)) :
    lineBit (withNibble n lv).rs = some rs := by
  rw [← lineBit_driven rs, levelOf_eq, ← h]
  rfl

/-- Someone who reads the lines with RS and a nibble on them reads both back (rules R77, R78, R79). -/
theorem onLines_withNibble {rs : Bool} {lv : Levels} (n : Nibble) (h : lv.rs = driven (rsLevel rs)) :
    onLines (withNibble n lv) = some (rs, n) := by
  rw [onLines, lineBit_withNibble_rs n h, nibbleOnLines_withNibble]

/-- One strobe shows the watcher what stands on the lines: it moves E only (rule R167). -/
theorem nibblesOnWire_strobeEvents (lv : Levels) : nibblesOnWire lv strobeEvents = [onLines lv] := rfl

/-- A strobe from unsettled lines is the display's one latch (rule R51). -/
theorem watch_strobeEvents (lv : Levels) {d : Display} (hd : d.strobe = .unsettled) :
    watch lv strobeEvents d = d.latchLines { lv with e := .low } := by
  obtain ⟨cells, cursor, half, strobe, sync⟩ := d
  cases hd
  rfl

/-- With RS and a nibble on the lines the latch takes both. -/
theorem latchLines_withNibble {rs : Bool} {lv : Levels} (n : Nibble) (d : Display) (h : lv.rs = driven (rsLevel rs)) :
    d.latchLines (withNibble n lv) = d.latch rs n := by
  rw [Display.latchLines, lineBit_withNibble_rs n h, nibbleOnLines_withNibble]

/-! ## One nibble with its strobe -/

/-- The four writes of a nibble and its strobe (rules R165, R167). -/
def nibbleStrobe (n : Nibble) : List Event := nibbleEvents n ++ strobeEvents

/-- SEND_BYTE is RS, the high nibble, the low nibble (rule R163). -/
theorem sendByteEvents_eq (v : Byte) (rs : Bool) :
    sendByteEvents v rs = .set .rs (rsLevel rs) :: (nibbleStrobe (highNibble v) ++ nibbleStrobe (lowNibble v)) := by
  simp [sendByteEvents, nibbleStrobe, highNibble_eq, lowNibble_eq]

theorem linesAfter_nibbleStrobe (n : Nibble) (lv : Levels) :
    linesAfter lv (nibbleStrobe n) = { withNibble n lv with e := .low } := by
  rw [nibbleStrobe, linesAfter_append, linesAfter_nibbleEvents, linesAfter_strobeEvents]

theorem nibblesOnWire_nibbleStrobe {rs : Bool} {lv : Levels} (n : Nibble) (h : lv.rs = driven (rsLevel rs)) :
    nibblesOnWire lv (nibbleStrobe n) = [some (rs, n)] := by
  rw [nibbleStrobe, nibblesOnWire_append, nibblesOnWire_writesLine (nibbleEvents_writesLine n), linesAfter_nibbleEvents,
    nibblesOnWire_strobeEvents, onLines_withNibble n h]
  rfl

theorem watch_nibbleStrobe {rs : Bool} {lv : Levels} {d : Display} (n : Nibble) (h : lv.rs = driven (rsLevel rs))
    (hd : d.strobe = .unsettled) : watch lv (nibbleStrobe n) d = d.latch rs n := by
  rw [nibbleStrobe, watch_append, watch_writesLine (nibbleEvents_writesLine n) lv hd, linesAfter_nibbleEvents,
    watch_strobeEvents _ hd]
  exact latchLines_withNibble (lv := { lv with e := .low }) n d h

/-! ## The bytes on the wire -/

/-- The two nibbles of a byte make the byte (rule R77). -/
theorem byte_of_nibbles (v : Byte) : BitVec.ofNat 8 (16 * (highNibble v).toNat + (lowNibble v).toNat) = v := by
  apply BitVec.eq_of_toNat_eq
  rw [highNibble_eq, lowNibble_eq]
  simp only [BitVec.toNat_ofNat]
  omega

theorem nibblesOnWire_sendByteEvents (lv : Levels) (v : Byte) (rs : Bool) :
    nibblesOnWire lv (sendByteEvents v rs) = [some (rs, highNibble v), some (rs, lowNibble v)] := by
  rw [sendByteEvents_eq, nibblesOnWire_cons, nibblesOnWire_append,
    nibblesOnWire_nibbleStrobe (rs := rs) _ rfl, linesAfter_nibbleStrobe, nibblesOnWire_nibbleStrobe (rs := rs) _ rfl]
  rfl

/-- The watcher pairs the nibbles of a sequence of bytes back into the bytes, whatever the lines showed before. -/
theorem bytesOnWire_bytesEvents (lv : Levels) (bytes : List (Byte × Bool)) :
    bytesOnWire lv (bytesEvents bytes) = bytes.map (fun p => some (p.2, p.1)) := by
  induction bytes generalizing lv with
  | nil => rfl
  | cons p ps ih =>
    have hrest := ih (linesAfter lv (sendByteEvents p.1 p.2))
    rw [bytesOnWire] at hrest
    rw [bytesOnWire, bytesEvents_cons, nibblesOnWire_append, nibblesOnWire_sendByteEvents]
    simp only [List.cons_append, List.nil_append, pairUp, if_true, byte_of_nibbles, hrest, List.map_cons]

theorem displayEvents_of_bytesOf {i : Instr} {bytes : List (Byte × Bool)} (h : bytesOf i = some bytes) :
    displayEvents i = some (bytesEvents bytes) := by
  cases i <;> simp [displayEvents, bytesOf] at h ⊢ <;> rw [h]

/-- Settles O43: a completed operation adds the events of its bytes, and these show the bytes. -/
theorem bytesOnTheWireAreTheBytesSent : Obligations.BytesOnTheWireAreTheBytesSent := by
  intro s i bytes hs ha hi hp
  rw [← bytesEvents_pinWrites] at hp
  obtain ⟨t, ht, hnew, -⟩ := exec_display_completes (displayEvents_of_bytesOf hi) hs ha hp
  exact ⟨t, ht, by rw [hnew, bytesOnWire_bytesEvents]⟩

/-! ## One byte at the display -/

/-- Taking a byte starts no strobe. -/
theorem takeByte_strobe {d : Display} (rs : Bool) (v : Byte) (hd : d.strobe = .unsettled) :
    (Display.takeByte rs v d).strobe = .unsettled := by
  unfold Display.takeByte
  split
  · unfold Display.takeData
    split
    · exact hd
    · split <;> exact hd
  · unfold Display.takeCommand
    split; · exact hd
    split; · exact hd
    split; · exact hd
    split; · exact hd
    rfl

theorem latch_strobe {d : Display} (rs : Bool) (n : Nibble) (hd : d.strobe = .unsettled) :
    (d.latch rs n).strobe = .unsettled := by
  have hpair : (d.pairNibble rs n).strobe = .unsettled := by
    unfold Display.pairNibble
    split
    · exact hd
    · exact hd
    · split
      · exact takeByte_strobe rs _ hd
      · rfl
  unfold Display.latch
  split <;> exact hpair

/-- One SEND_BYTE outside a strobe is two latches, high nibble first (rules R51, R163). -/
theorem watch_sendByteEvents (lv : Levels) (v : Byte) (rs : Bool) {d : Display}
    (hd : d.strobe = .unsettled ∨ d.strobe = .settled) :
    watch lv (sendByteEvents v rs) d =
      (({ d with strobe := .unsettled } : Display).latch rs (highNibble v)).latch rs (lowNibble v) := by
  have hhigh : (({ d with strobe := .unsettled } : Display).latch rs (highNibble v)).strobe = .unsettled :=
    latch_strobe rs _ rfl
  rw [sendByteEvents_eq, watch, observe_writesLine rfl _ hd, watch_append, linesAfter_nibbleStrobe,
    watch_nibbleStrobe (rs := rs) (highNibble v) rfl rfl, watch_nibbleStrobe (rs := rs) (lowNibble v) rfl hhigh]

/-- The nibbles are latched in the order that puts the byte together again. -/
theorem highNibble_append_lowNibble (v : Byte) : highNibble v ++ lowNibble v = v := by
  have happend := BitVec.extractLsb'_append_extractLsb'_eq_extractLsb' (x := v) (start₁ := 0) (len₁ := 4) (start₂ := 4)
    (len₂ := 4) rfl
  exact happend.trans BitVec.extractLsb'_eq_self

/-- Where no nibble of a byte is the last of the bootstrapping, a display in step takes the byte and is in step again (rules R51, R241). -/
theorem watch_sendByteEvents_of_inStep (lv : Levels) (v : Byte) (rs : Bool) {d : Display} (hd : inStep d)
    (hhigh : nextSync rs (highNibble v) d.sync ≠ 4)
    (hlow : nextSync rs (lowNibble v) (nextSync rs (highNibble v) d.sync) ≠ 4) :
    ∃ k k', watch lv (sendByteEvents v rs) d =
      { Display.takeByte rs v { d with half := .first, strobe := .unsettled, sync := k } with sync := k' } := by
  obtain ⟨hhalf, hstrobe⟩ := hd
  refine ⟨nextSync rs (highNibble v) d.sync, nextSync rs (lowNibble v) (nextSync rs (highNibble v) d.sync), ?_⟩
  rw [watch_sendByteEvents lv v rs hstrobe]
  simp only [Display.latch, Display.pairNibble, hhalf, hhigh, hlow, if_false, if_true, highNibble_append_lowNibble]

/-- Only the nibble 2 completes the bootstrapping (rule R241). -/
theorem nextSync_ne_four {n : Nibble} (h2 : n ≠ 2) (rs : Bool) (k : Nat) : nextSync rs n k ≠ 4 := by
  unfold nextSync
  split
  · exact nofun
  · split
    · omega
    · rw [if_neg (fun h => h2 h.1)]
      exact nofun

theorem nextSync_data_ne_four (n : Nibble) (k : Nat) : nextSync true n k ≠ 4 := nofun

/-- An operation of one byte, when the pins complete, is that byte at the display. -/
theorem exec_byte_completes {i : Instr} {s : State} {v : Byte} {rs : Bool} (hi : bytesOf i = some [(v, rs)])
    (hs : s.seq = .idle) (ha : accepted i s) (hp : pinsAllow 13 s.pins = true) :
    ∃ t, exec i s = .next t ∧ t.display = watch s.lvl (sendByteEvents v rs) s.display := by
  have hevents : displayEvents i = some (sendByteEvents v rs) := by
    rw [displayEvents_of_bytesOf hi, bytesEvents_cons]
    exact congrArg some (List.append_nil _)
  rw [← sendByte_pinWrites v rs] at hp
  obtain ⟨t, ht, -, hdisplay⟩ := exec_display_completes hevents hs ha hp
  exact ⟨t, ht, hdisplay⟩

/-- A data byte on a display in step with a known cursor (rule R50). -/
theorem exec_lcdData_display {s : State} {v : Byte} {row : LineSel} {col : Nat} (hs : s.seq = .idle)
    (hp : pinsAllow 13 s.pins = true) (hd : inStep s.display) (hcursor : s.display.cursor = .at row col)
    (hcol : col < 16) :
    ∃ t, exec (.lcdData v) s = .next t ∧ inStep t.display ∧ t.display.cursor = .at row (col + 1) ∧
      t.display.cells = Memory.write s.display.cells (cellAddress row col) v := by
  obtain ⟨t, ht, hdisplay⟩ := exec_byte_completes (i := .lcdData v) rfl hs trivial hp
  obtain ⟨k, k', hwatch⟩ := watch_sendByteEvents_of_inStep s.lvl v true hd (nextSync_data_ne_four _ _)
    (nextSync_data_ne_four _ _)
  have htake : Display.takeByte true v { s.display with half := .first, strobe := .unsettled, sync := k } =
      { cells := Memory.write s.display.cells (cellAddress row col) v, cursor := .at row (col + 1), half := .first,
        strobe := .unsettled, sync := k } := by
    simp [Display.takeByte, Display.takeData, hcursor, Config.lcdCols, hcol]
  refine ⟨t, ht, ?_⟩
  rw [hdisplay, hwatch, htake]
  exact ⟨⟨rfl, .inl rfl⟩, rfl, rfl⟩

/-- A line-address byte on a display in step (rule R50). -/
theorem exec_lineAddress_display {s : State} {i : Instr} {row : LineSel}
    (hi : bytesOf i = some [(lineAddress row, false)]) (hs : s.seq = .idle) (ha : accepted i s)
    (hp : pinsAllow 13 s.pins = true) (hd : inStep s.display) :
    ∃ t, exec i s = .next t ∧ inStep t.display ∧ t.display.cursor = .at row 0 ∧
      t.display.cells = s.display.cells := by
  obtain ⟨t, ht, hdisplay⟩ := exec_byte_completes hi hs ha hp
  have hhigh : highNibble (lineAddress row) ≠ 2 := by cases row <;> decide
  have hlow : lowNibble (lineAddress row) ≠ 2 := by cases row <;> decide
  obtain ⟨k, k', hwatch⟩ := watch_sendByteEvents_of_inStep s.lvl (lineAddress row) false hd
    (nextSync_ne_four hhigh _ _) (nextSync_ne_four hlow _ _)
  have htake : ∀ d : Display, Display.takeByte false (lineAddress row) d = { d with cursor := .at row 0 } := by
    intro d; cases row <;> rfl
  refine ⟨t, ht, ?_⟩
  rw [hdisplay, hwatch, htake]
  exact ⟨⟨rfl, .inl rfl⟩, rfl, rfl⟩

/-- Settles O49: the data byte by what the cells read after its write, the two commands as line addresses. -/
theorem dataLandsAtTheCursor : Obligations.DataLandsAtTheCursor := by
  intro s hs hp hd
  refine ⟨fun v row col hcursor hcol => ?_, ?_, ?_⟩
  · obtain ⟨t, ht, hstep, hmoved, hcells⟩ := exec_lcdData_display hs hp hd hcursor hcol
    refine ⟨t, ht, hstep, hmoved, ?_, fun a ha => ?_⟩ <;> rw [hcells]
    · exact read_write_same _ _ _
    · exact read_write_other _ _ _ _ ha
  · obtain ⟨t, ht, hstep, hmoved, hcells⟩ :=
      exec_lineAddress_display (i := .lcdCmdSetLine1) (row := .line1) rfl hs trivial hp hd
    exact ⟨t, ht, hstep, hmoved, fun a => by rw [hcells]⟩
  · obtain ⟨t, ht, hstep, hmoved, hcells⟩ :=
      exec_lineAddress_display (i := .lcdCmdSetLine2) (row := .line2) rfl hs trivial hp hd
    exact ⟨t, ht, hstep, hmoved, fun a => by rw [hcells]⟩

end Sys2Proof.MemoryProofs
end

section
/-! Encoding, the formats: each field's decoder reads back what the encoder writes, whatever follows it, and so each format's does
(30_encoding.md sections 1 to 7). -/

namespace Sys2Proof.EncodingProofs

open Sys2Proof.Machine Sys2Proof.Safety

/-! ## Operands -/

/-- The seven-bit bytes of a number, enough of them, read back as the number (entry 3). -/
theorem decodeNat_encodeNatFuel {fuel n : Nat} (h : n ≤ fuel) (rest : List Byte) :
    decodeNat (encodeNatFuel fuel n ++ rest) = some (n, rest) := by
  induction fuel generalizing n with
  | zero =>
    obtain rfl : n = 0 := by omega
    rfl
  | succ fuel ih =>
    unfold encodeNatFuel
    by_cases hn : n < 128
    · have hlast : n % 2 ^ 8 = n := by omega
      rw [if_pos hn, List.singleton_append, decodeNat, BitVec.toNat_ofNat, hlast, if_pos hn]
    · have hmore : (n % 128 + 128) % 2 ^ 8 = n % 128 + 128 := by omega
      rw [if_neg hn, List.cons_append, decodeNat, ih (by omega), BitVec.toNat_ofNat, hmore, if_neg (by omega)]
      simp only [Option.some.injEq, Prod.mk.injEq, and_true]
      omega

@[simp] theorem decodeNat_encodeNat (n : Nat) (rest : List Byte) : decodeNat (encodeNat n ++ rest) = some (n, rest) :=
  decodeNat_encodeNatFuel le_rfl rest

theorem intOfNat_natOfInt (z : Int) : intOfNat (natOfInt z) = z := by
  unfold intOfNat natOfInt
  split <;> split <;> omega

@[simp] theorem decodeInt_encodeInt (z : Int) (rest : List Byte) : decodeInt (encodeInt z ++ rest) = some (z, rest) := by
  rw [decodeInt, encodeInt, decodeNat_encodeNat]
  simp only [intOfNat_natOfInt]

@[simp] theorem decodeFrac_encodeFrac (q : Frac) (rest : List Byte) :
    decodeFrac (encodeFrac q ++ rest) = some (q, rest) := by
  simp only [decodeFrac, encodeFrac, List.append_assoc, decodeInt_encodeInt, decodeNat_encodeNat]

@[simp] theorem decodeModel_encodeModel (m : SensorModel) (rest : List Byte) :
    decodeModel (encodeModel m ++ rest) = some (m, rest) := by
  simp only [decodeModel, encodeModel, List.append_assoc, decodeFrac_encodeFrac, decodeInt_encodeInt]

@[simp] theorem decodeText_encodeText (text rest : List Byte) :
    decodeText (encodeNat text.length ++ (text ++ rest)) = some (text, rest) := by
  simp only [decodeText, decodeNat_encodeNat, List.length_append, Nat.le_add_right, if_true, List.take_left,
    List.drop_left]

/-! ## Heads -/

/-- The head of a request or a response: the code in the low three bits of the first byte, five bits above it (rules R83, R84). -/
theorem head_byte {code low : Nat} (hcode : code < 8) :
    (BitVec.ofNat 8 (code + 8 * low)).toNat % 8 = code ∧ (BitVec.ofNat 8 (code + 8 * low)).toNat / 8 = low % 32 := by
  rw [BitVec.toNat_ofNat]
  omega

/-- A second byte carries the bits above those five. -/
theorem head_second_byte {code rest : Nat} (hcode : code < 8) (hrest : rest < 2 ^ 13) :
    (BitVec.ofNat 8 ((code + 8 * rest) / 256)).toNat = rest / 32 := by
  rw [BitVec.toNat_ofNat]
  omega

theorem decodeHostReq_readChannel {n : Nat} (h : n < 2 ^ 13) (rest : List Byte) :
    decodeHostReq (encodeHead 0 n ++ rest) = .ok (.readChannel n, rest) := by
  obtain ⟨hcode, hlow⟩ := head_byte (code := 0) (low := n) (by omega)
  have hsum : n % 32 + 32 * (n / 32) = n := Nat.mod_add_div n 32
  simp only [encodeHead, List.cons_append, List.nil_append, decodeHostReq, hcode, hlow, decodeReadChannel,
    head_second_byte (code := 0) (by omega) h, hsum]

theorem decodeHostReq_convert (sample : Sample) (model : SensorModel) (places : Nat) (rest : List Byte) :
    decodeHostReq (encodeHead 1 sample.toNat ++ (encodeModel model ++ (encodeNat places ++ rest))) =
      .ok (.convert sample model places, rest) := by
  have hlt := sample.isLt
  obtain ⟨hcode, hlow⟩ := head_byte (code := 1) (low := sample.toNat) (by omega)
  have hsum : sample.toNat % 32 + 32 * (sample.toNat / 32) = sample.toNat := Nat.mod_add_div _ 32
  have hstray : ¬ 32 ≤ sample.toNat / 32 := by omega
  simp only [encodeHead, List.cons_append, List.nil_append, decodeHostReq, hcode, hlow, decodeConvert,
    head_second_byte (code := 1) (rest := sample.toNat) (by omega) (by omega), hstray, if_false,
    decodeModel_encodeModel, decodeNat_encodeNat, hsum, BitVec.ofNat_toNat, BitVec.setWidth_eq]

theorem decodeHostReq_writeLine (text : List Byte) (line : LineSel) (rest : List Byte) :
    decodeHostReq (BitVec.ofNat 8 (4 + 8 * lineSelBit line) :: (encodeNat text.length ++ (text ++ rest))) =
      .ok (.lcdWriteLine text line, rest) := by
  obtain ⟨hcode, hlow⟩ := head_byte (code := 4) (low := lineSelBit line) (by omega)
  simp only [decodeHostReq, hcode, hlow, decodeWriteLine, decodeText_encodeText]
  cases line <;> rfl

/-! ## Every format reads what it writes -/

theorem decodeHostRsp_sample (v : Sample) :
    decodeHostRsp [8, BitVec.ofNat 8 v.toNat, BitVec.ofNat 8 (v.toNat / 256)] = .ok (.statusOk (.sample v), []) := by
  have hlt := v.isLt
  have hhigh : (BitVec.ofNat 8 (v.toNat / 256)).toNat = v.toNat / 256 := by rw [BitVec.toNat_ofNat]; omega
  have hlow : (BitVec.ofNat 8 v.toNat).toNat = v.toNat % 256 := BitVec.toNat_ofNat _ _
  have hsum : v.toNat % 256 + 256 * (v.toNat / 256) = v.toNat := Nat.mod_add_div _ 256
  have hstray : ¬ 4 ≤ v.toNat / 256 := by omega
  have hkind : decodeHostRsp [8, BitVec.ofNat 8 v.toNat, BitVec.ofNat 8 (v.toNat / 256)] =
      decodeOkValue 1 [BitVec.ofNat 8 v.toNat, BitVec.ofNat 8 (v.toNat / 256)] := rfl
  rw [hkind]
  simp only [decodeOkValue, hhigh, hlow, hstray, if_false, hsum]
  rw [BitVec.ofNat_toNat, BitVec.setWidth_eq]

theorem decodeHostRsp_temperature (tq : Int) :
    decodeHostRsp (16 :: encodeInt tq) = .ok (.statusOk (.temperature tq), []) := by
  have hkind : decodeHostRsp (16 :: encodeInt tq) = decodeOkValue 2 (encodeInt tq) := rfl
  have hvalue := decodeInt_encodeInt tq []
  rw [List.append_nil] at hvalue
  rw [hkind, decodeOkValue, hvalue]

theorem decodeNibble_setWidth (n : Nibble) : decodeNibble [n.setWidth 8] = .ok (.putNibble n, []) := by
  revert n; exact bv4_cases (by decide)

/-- The command frame of each of the eight channels reads back as the channel (rule R71). -/
theorem decodeAdcCmd_frame (c : BitVec 3) :
    decodeAdcCmd [0x01, 0x80 ||| (c.setWidth 8 <<< 4), 0x00] = .ok (.adcCmd c, []) := by
  have hall : ∀ c : Fin 8, decodeAdcCmd [0x01, 0x80 ||| ((BitVec.ofFin c : BitVec 3).setWidth 8 <<< 4), 0x00] =
      .ok (.adcCmd (BitVec.ofFin c), []) := by decide
  exact hall c.toFin

/-- Each instruction's word, read in its format, is the instruction, and no byte is left. -/
theorem decodeFront_encodeBytes {i : Instr} (h : i.wellFormed = true) :
    decodeFront (portOf i) (encodeBytes i) = .ok (i, []) := by
  cases i with
  | readChannel channel =>
    simp only [Instr.wellFormed, channelPresentable, Bool.and_eq_true, decide_eq_true_eq] at h
    obtain ⟨hnonneg, hpresentable⟩ := h
    have hbound : channel < 8192 := hpresentable
    have hread := decodeHostReq_readChannel (n := channel.toNat) (by omega) []
    rw [Int.toNat_of_nonneg hnonneg, List.append_nil] at hread
    exact hread
  | convert sample model places =>
    have hread := decodeHostReq_convert sample model places []
    rw [List.append_nil, ← List.append_assoc] at hread
    exact hread
  | lcdWriteLine text line =>
    have hread := decodeHostReq_writeLine text line []
    rw [List.append_nil] at hread
    exact hread
  | sendByte value isData => cases isData <;> rfl
  | putNibble n => exact decodeNibble_setWidth n
  | adcCmd channel => exact decodeAdcCmd_frame channel
  | statusOk value =>
    cases value with
    | none => rfl
    | sample v => exact decodeHostRsp_sample v
    | temperature tq => exact decodeHostRsp_temperature tq
  | _ => rfl

/-- Settles O1: the format reads the whole word, and nothing is left to refuse. -/
theorem decodeOfEncodeIsTheInstruction : Obligations.DecodeOfEncodeIsTheInstruction := fun _ h =>
  decode_eq_ok.2 ⟨[], decodeFront_encodeBytes h, mayFollow_nil _⟩

end Sys2Proof.EncodingProofs
end

section
/-! Encoding, what the decoder accepts: the command frames, the command map, the lengths of the fixed formats. -/

namespace Sys2Proof.EncodingProofs

open Sys2Proof.Machine Sys2Proof.Safety

/-- Settles O2, word by word. -/
theorem tableWordsDecode : Obligations.TableWordsDecode :=
  ⟨rfl, rfl, rfl, rfl, rfl, rfl, rfl⟩

/-! ## Command frames -/

/-- The bits of two words in a row tell both words. -/
theorem bitVec_append_inj {m n : Nat} {x x' : BitVec m} {y y' : BitVec n} (h : x ++ y = x' ++ y') : x = x' ∧ y = y' := by
  have hleft := congrArg (BitVec.extractLsb' n m) h
  have hright := congrArg (BitVec.extractLsb' 0 n) h
  simp only [BitVec.extractLsb'_append_eq_left] at hleft
  simp only [BitVec.extractLsb'_append_eq_right] at hright
  exact ⟨hleft, hright⟩

/-- Three bytes are equal as one word only when they are equal byte by byte. -/
theorem append_bytes_inj {a0 a1 a2 b0 b1 b2 : Byte} :
    (a0 ++ a1 ++ a2 : BitVec 24) = b0 ++ b1 ++ b2 ↔ a0 = b0 ∧ a1 = b1 ∧ a2 = b2 := by
  refine ⟨fun h => ?_, by rintro ⟨rfl, rfl, rfl⟩; rfl⟩
  obtain ⟨hupper, h2⟩ := bitVec_append_inj h
  obtain ⟨h0, h1⟩ := bitVec_append_inj hupper
  exact ⟨h0, h1, h2⟩

/-- Byte 1 of the command frame of a channel (rule R71). -/
def channelByte (c : BitVec 3) : Byte := 0x80 ||| (c.setWidth 8 <<< 4)

/-- The 24-bit pattern is byte 1 between two fixed bytes. -/
theorem frame_pattern_eq (c : BitVec 3) :
    (0x018000#24 ||| (c.setWidth 24 <<< 12)) = ((0x01 : Byte) ++ channelByte c ++ (0x00 : Byte) : BitVec 24) := by
  have hall : ∀ k : Fin 8, (0x018000#24 ||| ((BitVec.ofFin k : BitVec 3).setWidth 24 <<< 12)) =
      ((0x01 : Byte) ++ channelByte (BitVec.ofFin k) ++ (0x00 : Byte) : BitVec 24) := by decide
  exact hall c.toFin

/-- Byte 1 has its fixed bits and the channel in bits 6 to 4 exactly when it is the channel's byte. -/
theorem eq_channelByte_iff {b : Byte} {c : BitVec 3} :
    b = channelByte c ↔ b &&& 0x8F = 0x80 ∧ b.extractLsb' 4 3 = c := by
  constructor
  · rintro rfl
    have hall : ∀ k : Fin 8, channelByte (BitVec.ofFin k) &&& 0x8F = 0x80 ∧
        (channelByte (BitVec.ofFin k)).extractLsb' 4 3 = BitVec.ofFin k := by decide
    exact hall c.toFin
  · rintro ⟨hfixed, rfl⟩
    apply BitVec.eq_of_getLsbD_eq
    intro i hi
    have hbit : (b.getLsbD i && (0x8F : Byte).getLsbD i) = (0x80 : Byte).getLsbD i := by
      rw [← BitVec.getLsbD_and, hfixed]
    clear hfixed
    interval_cases i <;> simp_all [channelByte]

/-- What the decoder asks of a command frame, byte by byte. -/
theorem decode_frame_iff {b0 b1 b2 : Byte} {c : BitVec 3} :
    decode ⟨.adcCmd, [b0, b1, b2]⟩ = .ok (.adcCmd c) ↔ b0 = 0x01 ∧ b1 = channelByte c ∧ b2 = 0x00 := by
  rw [eq_channelByte_iff]
  have hfront : decodeFront .adcCmd [b0, b1, b2] =
      if b0 = 0x01 ∧ b1 &&& 0x8F = 0x80 ∧ b2 = 0x00 then .ok (.adcCmd (b1.extractLsb' 4 3), [])
      else .error .notACommandFrame := rfl
  rw [decode, hfront]
  by_cases hframe : b0 = 0x01 ∧ b1 &&& 0x8F = 0x80 ∧ b2 = 0x00
  · rw [if_pos hframe]
    obtain ⟨rfl, hfixed, rfl⟩ := hframe
    simpa using fun _ => hfixed
  · rw [if_neg hframe]
    refine ⟨nofun, ?_⟩
    rintro ⟨h0, ⟨hfixed, -⟩, h2⟩
    exact absurd ⟨h0, hfixed, h2⟩ hframe

/-- Settles O3: byte 0 and byte 2 are fixed, and byte 1 is the channel's. -/
theorem commandFramesAreThePattern : Obligations.CommandFramesAreThePattern := by
  intro b0 b1 b2 c
  rw [frame_pattern_eq, append_bytes_inj, decode_frame_iff]

/-! ## The command map -/

/-- The command map is the eight rows of the opcode table (rule R76). -/
theorem commandOf_eq_some {v : Byte} {i : Instr} : commandOf v = some i ↔ (i, v) ∈ commandRows := by
  constructor
  · unfold commandOf
    split_ifs with h0 h1 h2 h3 h4 h5 h6 h7 <;> rintro ⟨⟩ <;> subst v <;> decide
  · have hrows : ∀ row ∈ commandRows, commandOf row.2 = some row.1 := by decide
    exact hrows (i, v)

/-- A protocol byte with selector 0 is read by the command map. -/
theorem decode_command (v : Byte) (i : Instr) : decode ⟨.lcdByte, [v, 0]⟩ = .ok i ↔ commandOf v = some i := by
  have hfront : decodeFront .lcdByte [v, 0] =
      match commandOf v with
      | none => .error .unknownCommandByte
      | some i => .ok (i, []) := rfl
  rw [decode, hfront]
  cases commandOf v <;> simp

/-- Settles O4, by the command map for selector 0. -/
theorem commandMapIsComplete : Obligations.CommandMapIsComplete :=
  ⟨fun v i => (decode_command v i).trans commandOf_eq_some, fun _ => rfl⟩

/-! ## Lengths -/

theorem decodeSendByte_length {bytes rest : List Byte} {i : Instr} (h : decodeSendByte bytes = .ok (i, rest)) :
    bytes.length = rest.length + 2 := by
  match bytes, h with
  | v :: r :: tail, h =>
    rw [decodeSendByte] at h
    split at h <;> cases h
    rfl

theorem decodeLcdByte_length {bytes rest : List Byte} {i : Instr} (h : decodeLcdByte bytes = .ok (i, rest)) :
    bytes.length = rest.length + 2 := by
  match bytes, h with
  | v :: r :: tail, h =>
    rw [decodeLcdByte] at h
    split at h
    · split at h <;> cases h
      rfl
    · cases h
      rfl
    · cases h

theorem decodeNibble_length {bytes rest : List Byte} {i : Instr} (h : decodeNibble bytes = .ok (i, rest)) :
    bytes.length = rest.length + 1 := by
  match bytes, h with
  | b :: tail, h =>
    rw [decodeNibble] at h
    split at h <;> cases h
    rfl

theorem decodeStrobe_length {bytes rest : List Byte} {i : Instr} (h : decodeStrobe bytes = .ok (i, rest)) :
    bytes.length = rest.length + 1 := by
  match bytes, h with
  | b :: tail, h =>
    rw [decodeStrobe] at h
    split at h <;> cases h
    rfl

theorem decodeAdcCmd_length {bytes rest : List Byte} {i : Instr} (h : decodeAdcCmd bytes = .ok (i, rest)) :
    bytes.length = rest.length + 3 := by
  match bytes, h with
  | b0 :: b1 :: b2 :: tail, h =>
    rw [decodeAdcCmd] at h
    split at h <;> cases h
    rfl

theorem decodeAdcRsp_length {bytes rest : List Byte} {i : Instr} (h : decodeAdcRsp bytes = .ok (i, rest)) :
    bytes.length = rest.length + 3 := by
  match bytes, h with
  | b0 :: b1 :: b2 :: tail, h =>
    cases h
    rfl

/-- A format of fixed length takes exactly that many bytes (rule R70). -/
theorem decodeFront_length {port : Port} {n : Nat} (hn : fixedLength port = some n) {bytes rest : List Byte} {i : Instr}
    (h : decodeFront port bytes = .ok (i, rest)) : bytes.length = rest.length + n := by
  cases port <;> cases hn
  case sendByte => exact decodeSendByte_length h
  case lcdByte => exact decodeLcdByte_length h
  case nibble => exact decodeNibble_length h
  case strobe => exact decodeStrobe_length h
  case adcCmd => exact decodeAdcCmd_length h
  case adcRsp => exact decodeAdcRsp_length h

/-- Nothing may follow such a format (rule R70). -/
theorem mayFollow_fixed {port : Port} {n : Nat} (hn : fixedLength port = some n) {rest : List Byte}
    (h : mayFollow port rest = true) : rest = [] := by
  cases port
  case hostReq | hostRsp => cases hn
  all_goals exact List.isEmpty_iff.1 h

/-- Settles O59: the format takes its length, and nothing may be left over. -/
theorem fixedFormatsHaveTheirLength : Obligations.FixedFormatsHaveTheirLength := by
  intro p i n hp hn
  obtain ⟨rest, hfront, hrest⟩ := decode_eq_ok.1 hp
  rw [decodeFront_length hn hfront, mayFollow_fixed hn hrest, List.length_nil, Nat.zero_add]

end Sys2Proof.EncodingProofs
end

section
/-! Encoding, the rows run: what the step, the bus frames, the responses and the reserved codes do (30_encoding.md sections 2, 3, 7). -/

namespace Sys2Proof.EncodingProofs

open Sys2Proof.Machine Sys2Proof.Safety Sys2Proof.StateProofs Sys2Proof.MemoryProofs

/-- Settles O9, by the one course of `step` that an Idle core with a decodable packet leaves open. -/
theorem stepRunsTheDecodedPacket : Obligations.StepRunsTheDecodedPacket := by
  intro s p rest i hs hinbox hdecode
  rcases step_cases s with ⟨op, k, hb, -⟩ | ⟨-, hi, -⟩ | ⟨p', rest', i', -, hi, hd, e⟩ | ⟨p', rest', err, -, hi, hd, -⟩
  · rw [hs] at hb; cases hb
  all_goals rw [hinbox] at hi; cases hi
  all_goals rw [hdecode] at hd; cases hd
  exact e

/-! ## Answers -/

/-- An answer at an Idle core is added to the responses, and the working values are empty; nothing else changes. -/
theorem whenIdle_answer {s : State} (r : Response) (hs : s.seq = .idle) :
    whenIdle s (answer r s) = .next { s with responses := s.responses ++ [r], locals := {} } := by
  rw [whenIdle_of_idle _ hs, answer, ← hs]

/-- A row that only responds. -/
theorem exec_responds {i : Instr} {s : State} {r : Response} (hs : s.seq = .idle)
    (hcourse : course s.lcdst s.cfg.roundMode i = .responds r) :
    exec i s = .next { s with responses := s.responses ++ [r], locals := {} } := by
  rw [exec_eq_outcome, hcourse]
  exact whenIdle_answer r hs

/-- Settles O56: the three codes have one course. -/
theorem reservedOpCodesAreInvalidArguments : Obligations.ReservedOpCodesAreInvalidArguments := by
  rintro i s hs (rfl | rfl | rfl) <;> exact exec_responds hs rfl

/-- Settles O57: each row's course is its response. -/
theorem statusRowsAnswerTheHost : Obligations.StatusRowsAnswerTheHost := fun _ hs =>
  ⟨fun _ => exec_responds hs rfl, exec_responds hs rfl, exec_responds hs rfl, exec_responds hs rfl,
    exec_responds hs rfl⟩

theorem failureCode_bounds (f : Failure) : (failureCode f).toNat ≤ 4 ∧ failureCode f ≠ 0 := by
  cases f <;> decide

/-- Settles O58: a response is OK with a value, or one of four failures without one. -/
theorem reservedStatusesAreNeverProduced : Obligations.ReservedStatusesAreNeverProduced := by
  refine ⟨fun s => ⟨rfl, rfl, rfl⟩, fun r => ?_⟩
  cases r with
  | ok v => simp [statusCode, responseValue]
  | failed f =>
    obtain ⟨hle, hne⟩ := failureCode_bounds f
    exact ⟨hle, by simpa [statusCode, responseValue] using hne⟩

/-! ## The sample -/

/-- The two significant bits of byte 1 are its value modulo 4 (rule R74). -/
theorem significant_bits_toNat (b : Byte) : (b &&& 0x03).toNat = b.toNat % 4 := by
  have hmask : (0x03 : Byte).toNat = 2 ^ 2 - 1 := rfl
  rw [BitVec.toNat_and, hmask, Nat.and_two_pow_sub_one_eq_mod]

/-- SAMPLE in numbers (rule R74). -/
theorem assembleSample_eq (b0 b1 b2 : Byte) :
    assembleSample ⟨b0, b1, b2⟩ = BitVec.ofNat 10 (b1.toNat % 4 * 256 + b2.toNat) := by
  have hb2 : b2.toNat < 2 ^ 8 := b2.isLt
  apply BitVec.eq_of_toNat_eq
  have hhigh : ((b1 &&& 0x03).setWidth 10 <<< 8).toNat = (b1.toNat % 4) <<< 8 := by
    rw [BitVec.toNat_shiftLeft, BitVec.toNat_setWidth, significant_bits_toNat, Nat.shiftLeft_eq, Nat.shiftLeft_eq]
    omega
  have hlow : (b2.setWidth 10).toNat = b2.toNat := by rw [BitVec.toNat_setWidth]; omega
  rw [assembleSample, BitVec.toNat_or, hhigh, hlow, ← Nat.shiftLeft_add_eq_or_of_lt hb2, Nat.shiftLeft_eq,
    BitVec.toNat_ofNat]
  omega

/-- Settles O24: the row responds with its sample. -/
theorem responseIsDecodedToTheSample : Obligations.ResponseIsDecodedToTheSample := by
  intro s b0 b1 b2 hs
  rw [← assembleSample_eq b0]
  exact exec_responds hs rfl

/-! ## The exchange -/

/-- The one exchange of an operation, on a bus that answers three bytes (rules R46, R113). -/
theorem runOperation_transfer_returns {op : Instr} {channel : Int} (hplan : plan op = transferPlan channel) {s : State}
    {b0 b1 b2 : Byte} (hbus : s.bus.head = .returns [b0, b1, b2]) :
    runOperation op s =
      conclude op { busDone (commandFrame channel) ⟨b0, b1, b2⟩ (beginOperation op s) with seq := .busy op 1 } := by
  rw [runOperation_transfer hplan, busTransfer_returns (s := beginOperation op s) _ hbus]

/-- Settles O22: the exchange, and an ending that answers nothing. -/
theorem commandFrameMakesOneExchange : Obligations.CommandFrameMakesOneExchange := by
  intro s channel b0 b1 b2 hs hbus
  have hexec : exec (.adcCmd channel) s = .next (runOperation (.adcCmd channel) s) := whenIdle_of_idle _ hs
  rw [hexec, runOperation_transfer_returns rfl hbus, commandFrame_eq]
  simp only [hs]
  rfl

/-- READ_CHANNEL of a legal channel on a bus that answers three bytes: the exchange in the trace, the sample answered (rule R113). -/
theorem exec_readChannel_returns {s : State} {channel : Int} {b0 b1 b2 : Byte} (hs : s.seq = .idle)
    (hlow : 0 ≤ channel) (hhigh : channel ≤ 7) (hbus : s.bus.head = .returns [b0, b1, b2]) :
    exec (.readChannel channel) s =
      .next { s with
        trace := s.trace ++ [.xfer (commandFrame channel) ⟨b0, b1, b2⟩]
        responses := s.responses ++ [.ok (.sample (assembleSample ⟨b0, b1, b2⟩))]
        bus := s.bus.skip 1
        locals := {} } := by
  have hlegal : ∀ c : Int, Instr.readChannel channel = .readChannel c → 0 ≤ c ∧ c ≤ 7 := by
    rintro c ⟨⟩; exact ⟨hlow, hhigh⟩
  have hlen : 0 < (plan (.readChannel channel)).length := Nat.zero_lt_one
  rw [exec_of_accepted hs hlen trivial hlegal, runOperation_transfer_returns rfl hbus]
  simp only [hs]
  rfl

/-- SAMPLE is made of the ten significant bits only (rule R87). -/
theorem assembleSample_congr {a1 b1 : Byte} (h : a1 &&& 0x03 = b1 &&& 0x03) (a0 b0 b2 : Byte) :
    assembleSample ⟨a0, a1, b2⟩ = assembleSample ⟨b0, b1, b2⟩ := by
  simp only [assembleSample, h]

/-- Settles O20: the two answers give one sample, and READ_CHANNEL keeps nothing else of them but the exchange in the trace. -/
theorem unusedResponseBitsHaveNoEffect : Obligations.UnusedResponseBitsHaveNoEffect := by
  intro s t channel a0 a1 b0 b1 b2 l r hs hlow hhigh hbits ht
  have hexec := fun c0 c1 : Byte =>
    exec_readChannel_returns (s := { s with bus := ⟨.returns [c0, c1, b2] :: l, r⟩ }) hs hlow hhigh rfl
  rw [hexec] at ht
  cases ht
  refine ⟨_, hexec b0 b1, ?_⟩
  rw [assembleSample_congr hbits a0 b0 b2]
  rfl

end Sys2Proof.EncodingProofs
end

section
/-! Encoding, the display's bytes: what the rows of the command map and LCD_WRITE_LINE send, and that a host can send no command byte
outside the map, however the pins answer (30_encoding.md sections 4 to 6). -/

namespace Sys2Proof.EncodingProofs

open Sys2Proof.Machine Sys2Proof.Safety Sys2Proof.StateProofs Sys2Proof.MemoryProofs

/-! ## A completed operation, the whole next state -/

/-- The state after the events of a display operation whose pin writes all complete, before its ending. -/
def eventsMade (evs : List Event) (s : State) : State :=
  { s with
    trace := s.trace ++ evs
    lvl := linesAfter s.lvl evs
    pins := s.pins.skip (pinWrites evs)
    display := watch s.lvl evs s.display }

/-- The outcome is the ending of the operation in that state; SEQ and the working values are the ending's to write. -/
theorem exec_display_concludes {i : Instr} {s : State} {evs : List Event} (hi : displayEvents i = some evs)
    (hs : s.seq = .idle) (ha : accepted i s) (hp : pinsAllow (pinWrites evs) s.pins = true) :
    ∃ q l, exec i s = .next (conclude i { eventsMade evs s with seq := q, locals := l }) := by
  obtain ⟨hevents, hnoTransfer⟩ := plan_events i evs hi
  obtain ⟨q, l, hrun⟩ := runMicros_success i 0 (plan i) (beginOperation i s) hnoTransfer (by rw [hevents]; exact hp)
  refine ⟨q, l, ?_⟩
  rw [exec_display i s evs hi hs ha, runOperation, hrun, hevents]
  rfl

/-- An operation without an answer leaves its events. -/
theorem exec_display_silent {i : Instr} {s : State} {evs : List Event} (hi : displayEvents i = some evs)
    (hend : ending i = .silent) (hs : s.seq = .idle) (ha : accepted i s)
    (hp : pinsAllow (pinWrites evs) s.pins = true) :
    exec i s = .next { eventsMade evs s with locals := {} } := by
  obtain ⟨q, l, hexec⟩ := exec_display_concludes hi hs ha hp
  rw [hexec, conclude, hend]
  simp only [finish, eventsMade, hs]

/-- An operation that is answered OK leaves its events and the answer. -/
theorem exec_display_answersDone {i : Instr} {s : State} {evs : List Event} (hi : displayEvents i = some evs)
    (hend : ending i = .answersDone) (hs : s.seq = .idle) (ha : accepted i s)
    (hp : pinsAllow (pinWrites evs) s.pins = true) :
    exec i s = .next { eventsMade evs s with responses := s.responses ++ [.ok .none], locals := {} } := by
  obtain ⟨q, l, hexec⟩ := exec_display_concludes hi hs ha hp
  rw [hexec, conclude, hend]
  simp only [answer, eventsMade, hs]

/-- Each row of the command map sends its byte as a command, and has no answer (rule R76). -/
theorem commandRows_bytes : ∀ row ∈ commandRows, bytesOf row.1 = some [(row.2, false)] ∧ ending row.1 = .silent := by
  decide

/-- Only operations with an answer have a guard (rule R171). -/
theorem accepted_of_silent {i : Instr} (h : ending i = .silent) (s : State) : accepted i s := by
  cases i
  case lcdClear | lcdWriteLine => cases h
  all_goals trivial

/-- The rows that send one protocol byte and answer nothing, with the byte and its selector. -/
theorem protocolByteRow {i : Instr} {v : Byte} {isData : Bool}
    (h : (i, v) ∈ commandRows ∧ isData = false ∨ i = .lcdData v ∧ isData = true) :
    bytesOf i = some [(v, isData)] ∧ ending i = .silent := by
  rcases h with ⟨hrow, rfl⟩ | ⟨rfl, rfl⟩
  · exact commandRows_bytes (i, v) hrow
  · exact ⟨rfl, rfl⟩

/-- Settles O36: each row sends its one byte and has no answer. -/
theorem protocolByteRowsSendTheirByte : Obligations.ProtocolByteRowsSendTheirByte := by
  intro s i v isData hs hp hrow
  obtain ⟨hbytes, hend⟩ := protocolByteRow hrow
  have hone : bytesEvents [(v, isData)] = sendByteEvents v isData := List.append_nil _
  have hevents := displayEvents_of_bytesOf hbytes
  rw [hone] at hevents
  have hwrites := sendByte_pinWrites v isData
  rw [exec_display_silent hevents hend hs (accepted_of_silent hend s) (by rw [hwrites]; exact hp), eventsMade, hwrites]

/-- Settles O39: LCD_WRITE_LINE, accepted in Ready, sends seventeen bytes and is answered. -/
theorem writeLineSendsAddressAndSixteenCells : Obligations.WriteLineSendsAddressAndSixteenCells := by
  intro s text line hs hready hp
  refine ⟨paddedText_length text, ?_⟩
  have hwrites : pinWrites (bytesEvents (lineBytes text line)) = 221 := by
    rw [bytesEvents_pinWrites, lineBytes, List.length_cons, List.length_map, paddedText_length]
  rw [exec_display_answersDone (i := .lcdWriteLine text line) rfl rfl hs hready (by rw [hwrites]; exact hp), eventsMade,
    hwrites]

/-! ## A display operation under any pin answers -/

/-- What can be left of a list of events: the whole list, or the list cut at a failing pin write (rules R14, R177). -/
def MadeOf (full evs : List Event) : Prop :=
  evs = full ∨ ∃ (n : Nat) (l : Line) (v : Level), full[n]? = some (.set l v) ∧ evs = full.take n ++ [.setFail l v]

theorem madeOf_cons (ev : Event) {full evs : List Event} (h : MadeOf full evs) : MadeOf (ev :: full) (ev :: evs) := by
  rcases h with rfl | ⟨n, l, v, hn, rfl⟩
  · exact .inl rfl
  · exact .inr ⟨n + 1, l, v, hn, rfl⟩

/-- A list of steps without a bus call adds to the trace what is made of its events. -/
theorem runMicros_trace (op : Instr) (k : Nat) {ms : List Micro} (s : State) (hm : ms.all noTransfer = true) :
    ∃ evs, MadeOf (ms.map eventOf) evs ∧ (runMicros op k ms s).trace = s.trace ++ evs := by
  induction ms generalizing k s with
  | nil =>
    obtain ⟨-, -, -, -, htrace, -⟩ := conclude_cases op s
    exact ⟨[], .inl rfl, htrace.trans (List.append_nil _).symm⟩
  | cons m ms ih =>
    rw [List.all_cons, Bool.and_eq_true] at hm
    obtain ⟨hprim, hrest⟩ := hm
    have hnext : ∀ u : State, u.trace = s.trace ++ [eventOf m] → ∃ evs, MadeOf ((m :: ms).map eventOf) evs ∧
        (runMicros op (k + 1) ms { u with seq := .busy op (k + 1) }).trace = s.trace ++ evs := by
      intro u hu
      obtain ⟨evs, hmade, htrace⟩ := ih (k + 1) { u with seq := .busy op (k + 1) } hrest
      exact ⟨eventOf m :: evs, madeOf_cons _ hmade, by rw [htrace, hu, List.append_assoc, List.singleton_append]⟩
    rw [runMicros]
    generalize hp : perform m s = p
    cases performed_of_eq hp with
    | pinDone l v prim => exact hnext _ (by rw [eventOf, prim]; rfl)
    | delayDone d prim => exact hnext _ (by rw [eventOf, prim]; rfl)
    | pinFailed l v prim => exact ⟨[.setFail l v], .inr ⟨0, l, v, by simp [eventOf, prim], rfl⟩, rfl⟩
    | busDone tx rx prim | busFailed tx prim | busHung tx prim => simp [noTransfer, prim] at hprim

/-- A display operation, run or refused by its guard, adds what is made of its events, or nothing. -/
theorem newEvents_display {i : Instr} {s t : State} {full : List Event} (hi : displayEvents i = some full)
    (ht : exec i s = .next t) : newEvents s t = [] ∨ MadeOf full (newEvents s t) := by
  obtain ⟨hevents, hnoTransfer⟩ := plan_events i full hi
  obtain ⟨-, ⟨r, rfl⟩ | rfl⟩ := exec_next ht
  · exact .inl List.drop_length
  · obtain ⟨evs, hmade, htrace⟩ := runMicros_trace i 0 (beginOperation i s) hnoTransfer
    rw [hevents] at hmade
    have hnew : newEvents s (runOperation i s) = evs :=
      (congrArg (List.drop s.trace.length) htrace).trans List.drop_left
    rw [hnew]
    exact .inr hmade

/-! ## The watcher -/

/-- Two nibbles are told as one byte, whatever follows them. -/
theorem pairUp_cons_cons (x y : Option (Bool × Nibble)) : ∃ b, ∀ ns, pairUp (x :: y :: ns) = b :: pairUp ns := by
  cases x <;> cases y <;> exact ⟨_, fun _ => rfl⟩

/-- A half byte is left out (rule R51). -/
theorem pairUp_singleton (x : Option (Bool × Nibble)) : pairUp [x] = [] := by cases x <;> rfl

/-- The bytes told from the first nibbles are the first bytes told. -/
theorem pairUp_prefix : ∀ ns ms : List (Option (Bool × Nibble)), pairUp ns <+: pairUp (ns ++ ms)
  | [], _ => List.nil_prefix
  | [x], ms => by rw [pairUp_singleton]; exact List.nil_prefix
  | x :: y :: ns, ms => by
    obtain ⟨b, hb⟩ := pairUp_cons_cons x y
    rw [List.cons_append, List.cons_append, hb, hb, List.prefix_cons_inj]
    exact pairUp_prefix ns ms

/-- A failed pin write shows the watcher no nibble, so a cut list of events shows the first bytes of the whole list. -/
theorem bytesOnWire_madeOf {full evs : List Event} (h : MadeOf full evs) (lv : Levels) :
    bytesOnWire lv evs <+: bytesOnWire lv full := by
  rcases h with rfl | ⟨n, l, v, -, rfl⟩
  · exact List.prefix_rfl
  · have hfail : ∀ lv', nibblesOnWire lv' [.setFail l v] = [] := fun _ => rfl
    have hfull : nibblesOnWire lv full =
        nibblesOnWire lv (full.take n) ++ nibblesOnWire (linesAfter lv (full.take n)) (full.drop n) := by
      rw [← nibblesOnWire_append, List.take_append_drop]
    rw [bytesOnWire, bytesOnWire, nibblesOnWire_append, hfail, List.append_nil, hfull]
    exact pairUp_prefix _ _

/-! ## What a host can send -/

/-- A data byte, or a command byte of the map. -/
def inCommandMap (p : Byte × Bool) : Prop := p.2 = true ∨ p.1 ∈ commandBytes

/-- The display operations a host can request send bytes of the map only (rules R162, R172, R173, R175). -/
theorem hostOperation_bytes {i : Instr} {full : List Event} (h : hostOperation i = true)
    (hi : displayEvents i = some full) : ∃ bytes, full = bytesEvents bytes ∧ ∀ p ∈ bytes, inCommandMap p := by
  cases i <;> cases h <;> cases hi
  case lcdInit =>
    have hinit : ∀ b ∈ initBytes.map Prod.fst, b ∈ commandBytes := by decide
    exact ⟨initBytes, rfl, fun p hp => .inr (hinit p.1 (List.mem_map_of_mem hp))⟩
  case lcdClear => exact ⟨[(0x01, false)], rfl, List.forall_mem_singleton.2 (.inr (by decide))⟩
  case lcdWriteLine text line =>
    refine ⟨lineBytes text line, rfl, fun p hp => ?_⟩
    rcases List.mem_cons.1 hp with rfl | hp
    · exact .inr (by cases line <;> decide)
    · obtain ⟨b, -, rfl⟩ := List.mem_map.1 hp
      exact .inl rfl

/-- What is no display operation writes no line, so the watcher sees nothing of it. -/
theorem nibblesOnWire_of_not_display {i : Instr} {s t : State} (hi : displayEvents i = none)
    (ht : exec i s = .next t) (lv : Levels) : nibblesOnWire lv (newEvents s t) = [] := by
  have hsame : ∀ u : State, u.trace = s.trace → nibblesOnWire lv (newEvents s u) = [] := by
    intro u hu
    rw [newEvents, hu, List.drop_length]
    rfl
  have hone : ∀ (u : State) (ev : Event), u.trace = s.trace ++ [ev] →
      nibblesOnWire lv [ev] = [] → nibblesOnWire lv (newEvents s u) = [] := by
    intro u ev hu hev
    rw [newEvents, hu, List.drop_left, hev]
  have hconclude : ∀ u : State, (conclude i u).trace = u.trace := by
    intro u
    obtain ⟨-, -, -, -, htrace, -⟩ := conclude_cases i u
    exact htrace
  obtain ⟨-, ⟨r, rfl⟩ | rfl⟩ := exec_next ht
  · exact hsame _ rfl
  · rcases plan_of_not_display hi with hplan | ⟨channel, hplan⟩
    · rw [runOperation, hplan]
      exact hsame _ (hconclude _)
    · rw [runOperation_transfer hplan]
      rcases busTransfer_cases (commandFrame channel) (beginOperation i s) with ⟨b0, b1, b2, -, e⟩ | ⟨-, e⟩ | ⟨-, e⟩ <;>
        rw [e]
      · exact hone _ _ (hconclude _) rfl
      · exact hone _ _ rfl rfl
      · exact hsame _ rfl

/-- Settles O44: the watcher tells the first bytes of the operation's own, and these are of the map. -/
theorem hostCanSendOnlyTheCommandMap : Obligations.HostCanSendOnlyTheCommandMap := by
  intro s t i _ hhost ht x hx
  cases hi : displayEvents i with
  | none =>
    rw [bytesOnWire, nibblesOnWire_of_not_display hi ht] at hx
    cases hx
  | some full =>
    obtain ⟨bytes, rfl, hbytes⟩ := hostOperation_bytes hhost hi
    rcases newEvents_display hi ht with hnew | hmade
    · rw [hnew] at hx
      cases hx
    · have hfull := (bytesOnWire_madeOf hmade s.lvl).subset hx
      rw [bytesOnWire_bytesEvents] at hfull
      obtain ⟨⟨v, isData⟩, hp, rfl⟩ := List.mem_map.1 hfull
      exact ⟨isData, v, rfl, hbytes _ hp⟩

end Sys2Proof.EncodingProofs
end

section
/-! AdcReader: READ_CHANNEL on every kind of channel and of bus answer (40_adc_reader.md). -/

namespace Sys2Proof.AdcReaderProofs

open Sys2Proof.Machine Sys2Proof.Safety Sys2Proof.StateProofs Sys2Proof.MemoryProofs Sys2Proof.EncodingProofs

/-! ## The frame and the start -/

/-- The frame of a legal channel, in the numbers of rule R71's pattern: a legal channel is a three-bit one. -/
theorem commandFrame_of_legal {channel : Int} (hlow : 0 ≤ channel) (hhigh : channel ≤ 7) :
    commandFrame channel = ⟨0x01, BitVec.ofNat 8 (0x80 + 16 * channel.toNat), 0x00⟩ := by
  obtain ⟨n, rfl⟩ := Int.eq_ofNat_of_zero_le hlow
  have hn : (BitVec.ofNat 3 n).toNat = n := by rw [BitVec.toNat_ofNat]; omega
  have hframe := commandFrame_eq (BitVec.ofNat 3 n)
  rwa [hn] at hframe

/-- READ_CHANNEL of a legal channel passes its argument check and runs its exchange (rules R111, R113). -/
theorem exec_readChannel_legal {s : State} {channel : Int} (hs : s.seq = .idle) (hlow : 0 ≤ channel)
    (hhigh : channel ≤ 7) : exec (.readChannel channel) s = .next (runOperation (.readChannel channel) s) := by
  have hlegal : ∀ c : Int, Instr.readChannel channel = .readChannel c → 0 ≤ c ∧ c ≤ 7 := by
    rintro c ⟨⟩; exact ⟨hlow, hhigh⟩
  have hlen : 0 < (plan (.readChannel channel)).length := Nat.zero_lt_one
  exact exec_of_accepted hs hlen trivial hlegal

/-! ## An illegal channel -/

/-- Settles O17: the argument check turns the operation into a mere response. -/
theorem readChannelRejectsAnIllegalChannel : Obligations.ReadChannelRejectsAnIllegalChannel := by
  intro s channel hs hillegal
  have hcourse : course s.lcdst s.cfg.roundMode (.readChannel channel) = .responds (.failed .invalidArgument) :=
    if_pos hillegal
  exact exec_responds hs hcourse

/-! ## A legal channel, by the bus's answer -/

/-- Settles O16: the exchange of the frame, and the sample in the numbers of rule R114. -/
theorem readChannelReturnsTheSample : Obligations.ReadChannelReturnsTheSample := by
  intro s channel b0 b1 b2 hs hlow hhigh hbus
  rw [exec_readChannel_returns hs hlow hhigh hbus, commandFrame_of_legal hlow hhigh, assembleSample_eq]

/-- The one exchange of an operation, on a bus that fails or answers other than three bytes (rules R46, R115). -/
theorem runOperation_transfer_fails {op : Instr} {channel : Int} (hplan : plan op = transferPlan channel) {s : State}
    (hbus : s.bus.head = .fails ∨ ∃ rx, s.bus.head = .returns rx ∧ rx.length ≠ 3) :
    runOperation op s = busFailed (commandFrame channel) (beginOperation op s) := by
  rw [runOperation_transfer hplan, busTransfer_fails (s := beginOperation op s) _ hbus]

/-- Settles O18: the failed exchange ends the operation, so nothing is decoded. -/
theorem readChannelReportsABusFailure : Obligations.ReadChannelReportsABusFailure := by
  intro s channel rx hs hlow hhigh hbus
  have hfails : s.bus.head = .fails ∨ ∃ rx, s.bus.head = .returns rx ∧ rx.length ≠ 3 := hbus.imp_right fun h => ⟨rx, h⟩
  rw [exec_readChannel_legal hs hlow hhigh, runOperation_transfer_fails rfl hfails, commandFrame_of_legal hlow hhigh]
  simp only [hs]
  rfl

/-- The one exchange of an operation, on a bus that never returns: the operation stays where it began (rules R46, R119). -/
theorem runOperation_transfer_never {op : Instr} {channel : Int} (hplan : plan op = transferPlan channel) {s : State}
    (hbus : s.bus.head = .never) : runOperation op s = beginOperation op s := by
  rw [runOperation_transfer hplan, busTransfer_never (s := beginOperation op s) _ hbus]

/-- Settles O19: SEQ stands at the exchange, every step from there is to the same state, and a busy core takes no request. -/
theorem hungBusIsNeverAnswered : Obligations.HungBusIsNeverAnswered := by
  intro s channel hs hlow hhigh hbus
  have hexec : exec (.readChannel channel) s = .next (beginOperation (.readChannel channel) s) := by
    rw [exec_readChannel_legal hs hlow hhigh, runOperation_transfer_never rfl hbus]
  have hstuck : step (beginOperation (.readChannel channel) s) = .next (beginOperation (.readChannel channel) s) :=
    step_of_hung (channel := channel) rfl rfl hbus
  exact ⟨_, hexec, rfl, rfl, rfl, rfl, rfl, core_run_of_fixed hstuck,
    fun i hi => overlappingRequestIsRefused _ _ _ i rfl hi⟩

/-! ## The two frames, one after the other -/

/-- Settles O25: the command makes READ_CHANNEL's exchange, and the response answers READ_CHANNEL's sample. -/
theorem readChannelIsCommandThenResponse : Obligations.ReadChannelIsCommandThenResponse := by
  intro s channel b0 b1 b2 hs hbus
  have hlow : 0 ≤ (channel.toNat : Int) := Int.natCast_nonneg _
  have hhigh : (channel.toNat : Int) ≤ 7 := by have := channel.isLt; omega
  refine ⟨_, commandFrameMakesOneExchange s channel b0 b1 b2 hs hbus, ?_⟩
  rw [readChannelReturnsTheSample s channel.toNat b0 b1 b2 hs hlow hhigh hbus, Int.toNat_natCast]
  exact responseIsDecodedToTheSample _ b0 b1 b2 hs

end Sys2Proof.AdcReaderProofs
end

section
/-! TemperatureConverter: RND over the rationals, the integer form, and CONVERT (41_temperature_converter.md). -/

namespace Sys2Proof.TemperatureProofs

open Sys2Proof.Machine Sys2Proof.StateProofs Sys2Proof.EncodingProofs

/-! ## RND over the rationals (rule R137) -/

/-- Which neighbour a tie between `f` and `f + 1` goes to (rule R137). -/
def breakTie : RoundMode → Int → Int
  | .halfEven, f => if f % 2 = 0 then f else f + 1
  | .halfAway, f => if 0 ≤ f then f + 1 else f

/-- A tie goes to one of its two neighbours. -/
theorem breakTie_eq_or (mode : RoundMode) (f : Int) : breakTie mode f = f ∨ breakTie mode f = f + 1 := by
  cases mode <;> simp only [breakTie] <;> split <;> simp

/-- The tie between `-f - 1` and `-f` mirrors the one between `f` and `f + 1`. -/
theorem breakTie_mirror (mode : RoundMode) (f : Int) : breakTie mode (-f - 1) = -breakTie mode f := by
  cases mode <;> simp only [breakTie] <;> split_ifs <;> omega

/-- A rational is nearer to one integer than to any other, or half-way between two. -/
theorem near_or_tie (q : ℚ) : (∃ n : Int, |q - n| < 1 / 2) ∨ ∃ f : Int, q = f + 1 / 2 := by
  have hle := Int.floor_le q
  have hlt := Int.lt_floor_add_one q
  rcases lt_trichotomy (q - ⌊q⌋) (1 / 2) with hlow | htie | hhigh
  · exact .inl ⟨⌊q⌋, abs_lt.2 ⟨by linarith, hlow⟩⟩
  · exact .inr ⟨⌊q⌋, by linarith⟩
  · refine .inl ⟨⌊q⌋ + 1, abs_lt.2 ?_⟩
    push_cast
    constructor <;> linarith

theorem roundExact_of_near (mode : RoundMode) {q : ℚ} {n : Int} (h : |q - n| < 1 / 2) : roundExact mode q = n := by
  obtain ⟨hlow, hhigh⟩ := abs_lt.1 h
  rcases le_or_gt (n : ℚ) q with hle | hlt
  · have hfloor : ⌊q⌋ = n := Int.floor_eq_iff.2 ⟨hle, by linarith⟩
    unfold roundExact
    rw [hfloor, if_pos hhigh]
  · have hfloor : ⌊q⌋ = n - 1 := Int.floor_eq_iff.2 ⟨by push_cast; linarith, by push_cast; linarith⟩
    have hup : 1 / 2 < q - ((n - 1 : Int) : ℚ) := by push_cast; linarith
    unfold roundExact
    rw [hfloor, if_neg hup.not_gt, if_pos hup, sub_add_cancel]

/-- A tie lies above zero exactly if its lower neighbour is not negative. -/
theorem tie_pos_iff (f : Int) : 0 < (f : ℚ) + 1 / 2 ↔ 0 ≤ f := by
  constructor
  · intro hpos
    by_contra! hneg
    have hle : (f : ℚ) ≤ -1 := by exact_mod_cast Int.le_sub_one_of_lt hneg
    linarith
  · intro hf
    have hf' : (0 : ℚ) ≤ f := Int.cast_nonneg hf
    linarith

theorem roundExact_of_tie (mode : RoundMode) (f : Int) : roundExact mode (f + 1 / 2) = breakTie mode f := by
  have hfloor : ⌊(f : ℚ) + 1 / 2⌋ = f := Int.floor_eq_iff.2 ⟨by linarith, by linarith⟩
  unfold roundExact
  rw [hfloor, add_sub_cancel_left, if_neg (lt_irrefl _), if_neg (lt_irrefl _)]
  cases mode <;> simp only [breakTie, tie_pos_iff]

/-- RND is off by a half at most. -/
theorem abs_sub_roundExact_le (mode : RoundMode) (q : ℚ) : |q - roundExact mode q| ≤ 1 / 2 := by
  rcases near_or_tie q with ⟨n, h⟩ | ⟨f, rfl⟩
  · rw [roundExact_of_near mode h]
    exact h.le
  · rw [roundExact_of_tie]
    rcases breakTie_eq_or mode f with h | h <;> rw [h, abs_le] <;> push_cast <;> constructor <;> linarith

theorem roundExact_neg (mode : RoundMode) (q : ℚ) : roundExact mode (-q) = -roundExact mode q := by
  rcases near_or_tie q with ⟨n, h⟩ | ⟨f, rfl⟩
  · have hneg : |-q - ((-n : Int) : ℚ)| < 1 / 2 := by rwa [Int.cast_neg, neg_sub_neg, abs_sub_comm]
    rw [roundExact_of_near mode h, roundExact_of_near mode hneg]
  · have hneg : -((f : ℚ) + 1 / 2) = ((-f - 1 : Int) : ℚ) + 1 / 2 := by push_cast; ring
    rw [hneg, roundExact_of_tie, roundExact_of_tie, breakTie_mirror]

/-- Two results out of order would be at least 1 apart, which the error bound leaves to equal arguments only. -/
theorem roundExact_mono (mode : RoundMode) {q1 q2 : ℚ} (h : q1 ≤ q2) : roundExact mode q1 ≤ roundExact mode q2 := by
  by_contra! hlt
  have hapart : (roundExact mode q2 : ℚ) + 1 ≤ roundExact mode q1 := by exact_mod_cast hlt
  obtain ⟨hlow, -⟩ := abs_le.1 (abs_sub_roundExact_le mode q1)
  obtain ⟨-, hhigh⟩ := abs_le.1 (abs_sub_roundExact_le mode q2)
  have heq : q1 = q2 := by linarith
  exact hlt.ne (congrArg (roundExact mode) heq.symm)

/-- Settles O29, by the error bound and the mirror image of a tie. -/
theorem roundingIsSymmetricAndMonotone : Obligations.RoundingIsSymmetricAndMonotone := fun mode =>
  ⟨roundExact_neg mode, fun _ _ => roundExact_mono mode⟩

/-! ## The integer form (rule R139) -/

/-- `floor_div` is the floor of the quotient. -/
theorem floor_div_eq_floorDiv {a b : Int} (hb : 0 < b) : ⌊(a : ℚ) / b⌋ = floorDiv a b := by
  obtain ⟨d, rfl⟩ := Int.eq_ofNat_of_zero_le hb.le
  exact Rat.floor_intCast_div_natCast a d

/-- RDIV is RND of the quotient: branch by branch the same comparison, the denominator cleared. -/
theorem roundDiv_eq_roundExact (mode : RoundMode) {num den : Int} (hden : 0 < den) :
    roundDiv mode num den = roundExact mode ((num : ℚ) / den) := by
  have hpos : (0 : ℚ) < den := Int.cast_pos.2 hden
  have hfrac : (num : ℚ) / den - floorDiv num den = ((num - floorDiv num den * den : Int) : ℚ) / den := by
    push_cast
    field_simp
  have hbelow (r : Int) : (r : ℚ) / den < 1 / 2 ↔ 2 * r < den := by
    rw [div_lt_div_iff₀ hpos two_pos]; norm_cast; omega
  have habove (r : Int) : 1 / 2 < (r : ℚ) / den ↔ den < 2 * r := by
    rw [div_lt_div_iff₀ two_pos hpos]; norm_cast; omega
  have hsign : 0 < (num : ℚ) / den ↔ 0 < num := by rw [div_pos_iff_of_pos_right hpos, Int.cast_pos]
  cases mode <;> simp only [roundDiv, roundExact, floor_div_eq_floorDiv hden, hfrac, hbelow, habove, hsign]

theorem fracDen_pos (q : Frac) : 0 < fracDen q := Int.lt_add_one_iff.2 (Int.natCast_nonneg _)

theorem fracDen_ne_zero (q : Frac) : (fracDen q : ℚ) ≠ 0 := Int.cast_ne_zero.2 (fracDen_pos q).ne'

theorem tqDen_pos {m : SensorModel} (hm : 0 < m.fullScaleCode) : 0 < tqDen m :=
  mul_pos (mul_pos (mul_pos hm (fracDen_pos _)) (fracDen_pos _)) (fracDen_pos _)

/-- NUM over DEN is T * 10^places: rules R134 and R135 with the denominators cleared. -/
theorem tqNum_div_tqDen (sample : Sample) {m : SensorModel} (places : Nat) (hm : 0 < m.fullScaleCode) :
    (tqNum sample m places : ℚ) / tqDen m = temperatureExact sample m * 10 ^ places := by
  have hfull : (m.fullScaleCode : ℚ) ≠ 0 := Int.cast_ne_zero.2 hm.ne'
  have href := fracDen_ne_zero m.referenceVoltage
  have hscale := fracDen_ne_zero m.scale
  have hoffset := fracDen_ne_zero m.offset
  simp only [tqNum, tqDen, powerOfTen, temperatureExact, voltageExact, fracValue]
  push_cast
  field_simp

/-- Settles O28: RDIV is RND of the quotient, and the quotient is T * 10^places. -/
theorem integerFormEqualsTheRationalForm : Obligations.IntegerFormEqualsTheRationalForm := by
  intro mode sample model places hm
  rw [temperatureCode, roundDiv_eq_roundExact mode (tqDen_pos hm), tqNum_div_tqDen sample places hm,
    temperatureCodeExact]

/-! ## The sample (rules R141 to R143) -/

/-- T as a line in the sample: rules R134 and R135 in one. -/
theorem temperatureExact_eq (sample : Sample) (m : SensorModel) :
    temperatureExact sample m =
      (sample.toNat : ℚ) / m.fullScaleCode * (fracValue m.referenceVoltage * fracValue m.scale) + fracValue m.offset := by
  rw [temperatureExact, voltageExact]
  ring

/-- Settles O30: the sample is none or all of fullScaleCode. -/
theorem zeroAndFullScaleIdentities : Obligations.ZeroAndFullScaleIdentities := by
  intro mode sample model places hm
  have hfull : (model.fullScaleCode : ℚ) ≠ 0 := Int.cast_ne_zero.2 hm.ne'
  simp only [integerFormEqualsTheRationalForm mode _ model places hm, temperatureCodeExact, temperatureExact_eq]
  refine ⟨by simp, fun hsample => ?_⟩
  have hratio : (sample.toNat : ℚ) / model.fullScaleCode = 1 := by
    rw [← hsample, Int.cast_natCast] at hfull ⊢
    exact div_self hfull
  rw [hratio, one_mul]

/-- The share of fullScaleCode grows with the sample. -/
theorem sample_share_mono {a b : Sample} {m : SensorModel} (hm : 0 < m.fullScaleCode) (hab : a.toNat ≤ b.toNat) :
    (a.toNat : ℚ) / m.fullScaleCode ≤ b.toNat / m.fullScaleCode :=
  div_le_div_of_nonneg_right (Nat.cast_le.2 hab) (Int.cast_nonneg hm.le)

/-- The order of two exact temperatures is the order of the two results (rules R136, R137). -/
theorem temperatureCode_le {mode : RoundMode} {a b : Sample} {m : SensorModel} {places : Nat} (hm : 0 < m.fullScaleCode)
    (h : temperatureExact a m ≤ temperatureExact b m) :
    temperatureCode mode a m places ≤ temperatureCode mode b m places := by
  rw [integerFormEqualsTheRationalForm mode a m places hm, integerFormEqualsTheRationalForm mode b m places hm]
  exact roundExact_mono mode (mul_le_mul_of_nonneg_right h (by positivity))

/-- Settles O31: the slope's sign gives the order of the exact temperatures, and rounding keeps it. -/
theorem convertIsMonotoneInTheSample : Obligations.ConvertIsMonotoneInTheSample := by
  intro mode a b model places hm hab
  have hshare := sample_share_mono hm hab
  refine ⟨fun hslope => temperatureCode_le hm ?_, fun hslope => temperatureCode_le hm ?_⟩ <;>
    rw [temperatureExact_eq, temperatureExact_eq]
  · exact add_le_add_left (mul_le_mul_of_nonneg_right hshare hslope) _
  · exact add_le_add_left (mul_le_mul_of_nonpos_right hshare hslope.le) _

/-! ## The two presets (rule R145) -/

/-- The two tie rules differ at ties only. -/
theorem roundDiv_eq_of_not_tie {num den : Int} (h : 2 * (num - floorDiv num den * den) ≠ den) (mode mode' : RoundMode) :
    roundDiv mode num den = roundDiv mode' num den := by
  unfold roundDiv
  rcases lt_or_gt_of_ne h with hlt | hgt
  · simp only [if_pos hlt]
  · simp only [if_neg hgt.not_gt, if_pos hgt]

theorem tqDen_preset {m : SensorModel} (hm : m = Config.model10mV ∨ m = Config.modelSpan) : tqDen m = 10230 := by
  rcases hm with rfl | rfl <;> rfl

theorem even_tqNum_preset (sample : Sample) (places : Nat) {m : SensorModel}
    (hm : m = Config.model10mV ∨ m = Config.modelSpan) : 2 ∣ tqNum sample m places := by
  apply Dvd.dvd.mul_left
  rcases hm with rfl | rfl <;> simp only [fracDen, Config.model10mV, Config.modelSpan] <;> omega

/-- Settles O32 by parity: a tie would leave the remainder 5115, but NUM and DEN are even. -/
theorem noTieUnderTheTwoPresets : Obligations.NoTieUnderTheTwoPresets := by
  intro sample places model hmodel
  have hnotie : 2 * (tqNum sample model places - floorDiv (tqNum sample model places) (tqDen model) * tqDen model) ≠
      tqDen model := by
    have heven := even_tqNum_preset sample places hmodel
    rw [tqDen_preset hmodel]
    omega
  exact ⟨hnotie, roundDiv_eq_of_not_tie hnotie _ _⟩

/-! ## CONVERT (rules R132, R140) -/

/-- CONVERT of a well-formed model answers the code and does nothing else. -/
theorem exec_convert_wellFormed {s : State} (sample : Sample) {model : SensorModel} (places : Nat) (hs : s.seq = .idle)
    (hm : 0 < model.fullScaleCode) :
    exec (.convert sample model places) s =
      .next { s with
        responses := s.responses ++ [.ok (.temperature (temperatureCode s.cfg.roundMode sample model places))]
        locals := {} } :=
  exec_responds hs (if_neg hm.not_ge)

/-- Settles O27: the model check decides between the two responses. -/
theorem convertFailsExactlyOnAMalformedModel : Obligations.ConvertFailsExactlyOnAMalformedModel := by
  intro s sample model places hs
  refine ⟨fun hm => exec_responds hs (if_pos hm), fun hm => ?_⟩
  exact ⟨_, _, exec_convert_wellFormed sample places hs hm, rfl, rfl⟩

/-- Settles O26: CONVERT answers the integer form, which is the rational one. -/
theorem convertAnswersTheRoundedTemperature : Obligations.ConvertAnswersTheRoundedTemperature := by
  intro s sample model places hs hm
  rw [exec_convert_wellFormed sample places hs hm, integerFormEqualsTheRationalForm _ sample model places hm]

end Sys2Proof.TemperatureProofs
end

section
/-! DisplayDriver, operations whose pin writes all complete: the lines each leaves, its ending, and its counts (42_display_driver.md). -/

namespace Sys2Proof.DisplayProofs

open Sys2Proof.Machine Sys2Proof.Safety Sys2Proof.MemoryProofs Sys2Proof.EncodingProofs

/-! ## The lines after whole bytes -/

/-- The lines a byte leaves: RS by the selector, E Low, the low nibble on the data lines (rules R77, R78, R79). -/
def linesOfByte (v : Byte) (isData : Bool) : Levels :=
  ⟨driven (rsLevel isData), .low, driven (levelOf (v.getLsbD 0)), driven (levelOf (v.getLsbD 1)),
    driven (levelOf (v.getLsbD 2)), driven (levelOf (v.getLsbD 3))⟩

/-- SEND_BYTE drives all six lines, so what they showed before does not matter (rule R163). -/
theorem linesAfter_sendByteEvents (lv : Levels) (v : Byte) (isData : Bool) :
    linesAfter lv (sendByteEvents v isData) = linesOfByte v isData := by
  have hbit : ∀ k, k < 4 → (lowNibble v).getLsbD k = v.getLsbD k := by
    intro k hk
    simp [lowNibble, hk]
  have hrs : ∀ evs, linesAfter lv (.set .rs (rsLevel isData) :: evs) =
      linesAfter { lv with rs := driven (rsLevel isData) } evs := fun _ => rfl
  rw [sendByteEvents_eq, hrs, linesAfter_append, linesAfter_nibbleStrobe, linesAfter_nibbleStrobe]
  simp only [withNibble, linesOfByte, hbit, Nat.reduceLT]

theorem bytesEvents_singleton (v : Byte) (isData : Bool) : bytesEvents [(v, isData)] = sendByteEvents v isData :=
  List.append_nil _

/-- Only the last byte of a sequence stands on the lines. -/
theorem linesAfter_bytesEvents_concat (lv : Levels) (bytes : List (Byte × Bool)) (v : Byte) (isData : Bool) :
    linesAfter lv (bytesEvents (bytes ++ [(v, isData)])) = linesOfByte v isData := by
  rw [bytesEvents_append, linesAfter_append, bytesEvents_singleton, linesAfter_sendByteEvents]

/-! ## An operation of one byte, and LCD_INIT's ending -/

theorem displayEvents_of_byte {i : Instr} {v : Byte} {isData : Bool} (h : bytesOf i = some [(v, isData)]) :
    displayEvents i = some (sendByteEvents v isData) := by
  rw [displayEvents_of_bytesOf h, bytesEvents_singleton]

/-- LCD_INIT's six bytes (rule R172). -/
theorem initBytes_pinWrites : pinWrites (bytesEvents initBytes) = 78 := bytesEvents_pinWrites initBytes

/-- LCD_INIT leaves its events, LCDST Ready and the answer OK (rule R172). -/
theorem exec_lcdInit_completes {s : State} (hs : s.seq = .idle) (hp : pinsAllow 78 s.pins = true) :
    exec .lcdInit s =
      .next { eventsMade (bytesEvents initBytes) s with
        lcdst := .ready, responses := s.responses ++ [.ok .none], locals := {} } := by
  rw [← initBytes_pinWrites] at hp
  obtain ⟨q, l, hexec⟩ := exec_display_concludes (i := .lcdInit) rfl hs trivial hp
  rw [hexec, conclude, ending]
  simp only [answer, eventsMade, hs]

/-! ## The next states -/

/-- Settles O33: PUT_NIBBLE has no answer, and its row of R165's table leaves its nibble on the lines. -/
theorem putNibbleWritesTheTableRow : Obligations.PutNibbleWritesTheTableRow := by
  intro s n hs hp
  obtain ⟨-, hwrites, -⟩ := nibbleEvents_counts n
  rw [exec_display_silent (i := .putNibble n) rfl rfl hs trivial (by rw [hwrites]; exact hp), eventsMade, hwrites,
    linesAfter_nibbleEvents]
  rfl

/-- Settles O34: STROBE has no answer, and its five events move E only. -/
theorem strobeIsFiveEventsOnE : Obligations.StrobeIsFiveEventsOnE := fun _ hs hp =>
  exec_display_silent (i := .strobe) (evs := strobeEvents) rfl rfl hs trivial hp

/-- Settles O35: SEND_BYTE has no answer, and its nineteen events leave the lines of its byte. -/
theorem sendByteEmitsNineteenEvents : Obligations.SendByteEmitsNineteenEvents := by
  intro s v isData hs hp
  refine ⟨sendByte_length v isData, ?_⟩
  have hevents := displayEvents_of_byte (i := .sendByte v isData) rfl
  have hwrites := sendByte_pinWrites v isData
  rw [exec_display_silent hevents rfl hs trivial (by rw [hwrites]; exact hp), eventsMade, hwrites,
    linesAfter_sendByteEvents]
  rfl

/-- Settles O38: LCD_CLEAR, accepted in Ready, sends one byte and is answered. -/
theorem clearSendsOneCommand : Obligations.ClearSendsOneCommand := by
  intro s hs hready hp
  have hevents := displayEvents_of_byte (i := .lcdClear) rfl
  have hwrites := sendByte_pinWrites 0x01 false
  rw [exec_display_answersDone hevents rfl hs hready (by rw [hwrites]; exact hp), eventsMade, hwrites,
    linesAfter_sendByteEvents]
  rfl

/-- Settles O37: six bytes, 78 pin writes, and the lines as the last byte, the clear command, leaves them. -/
theorem initSendsSixCommandsAndBecomesReady : Obligations.InitSendsSixCommandsAndBecomesReady := by
  intro s hs hp
  have hlines : linesAfter s.lvl (bytesEvents initBytes) = ⟨.low, .low, .high, .low, .low, .low⟩ :=
    linesAfter_bytesEvents_concat s.lvl [(0x33, false), (0x32, false), (0x06, false), (0x0C, false), (0x28, false)] _ _
  rw [exec_lcdInit_completes hs hp, eventsMade, initBytes_pinWrites, hlines]

/-! ## Counts (rule R181) -/

theorem nibbleStrobe_counts (n : Nibble) : delays (nibbleStrobe n) = 3 ∧ strobes (nibbleStrobe n) = 1 := by
  obtain ⟨-, -, hdelays, hstrobes⟩ := nibbleEvents_counts n
  rw [delays] at hdelays
  rw [strobes] at hstrobes
  rw [delays, strobes, nibbleStrobe, List.countP_append, List.countP_append, hdelays, hstrobes]
  exact ⟨rfl, rfl⟩

theorem delays_append (as bs : List Event) : delays (as ++ bs) = delays as + delays bs := List.countP_append

theorem strobes_append (as bs : List Event) : strobes (as ++ bs) = strobes as + strobes bs := List.countP_append

/-- Each of a byte's two strobes has three delays and lowers E once (rules R163, R167). -/
theorem sendByteEvents_counts (v : Byte) (isData : Bool) :
    delays (sendByteEvents v isData) = 6 ∧ strobes (sendByteEvents v isData) = 2 := by
  have hrs : [Event.set .rs (rsLevel isData)] ++ (nibbleStrobe (highNibble v) ++ nibbleStrobe (lowNibble v)) =
      sendByteEvents v isData := (sendByteEvents_eq v isData).symm
  obtain ⟨hdHigh, hsHigh⟩ := nibbleStrobe_counts (highNibble v)
  obtain ⟨hdLow, hsLow⟩ := nibbleStrobe_counts (lowNibble v)
  simp only [← hrs, delays_append, strobes_append, hdHigh, hsHigh, hdLow, hsLow]
  exact ⟨rfl, rfl⟩

theorem bytesEvents_counts (bytes : List (Byte × Bool)) :
    delays (bytesEvents bytes) = 6 * bytes.length ∧ strobes (bytesEvents bytes) = 2 * bytes.length := by
  induction bytes with
  | nil => exact ⟨rfl, rfl⟩
  | cons p ps ih =>
    obtain ⟨hdelays, hstrobes⟩ := sendByteEvents_counts p.1 p.2
    rw [bytesEvents_cons, delays_append, strobes_append, hdelays, hstrobes, ih.1, ih.2, List.length_cons]
    omega

/-- The address and the sixteen cells of a line (rule R175). -/
theorem lineBytes_length (text : List Byte) (line : LineSel) : (lineBytes text line).length = 17 := by
  rw [lineBytes, List.length_cons, List.length_map, paddedText_length]

/-- Settles O45: the four operations send 6, 1, 17 and 1 bytes, and every byte has the same counts. -/
theorem countsOfCompletedOperations : Obligations.CountsOfCompletedOperations := by
  intro s i n hs ha hi hp
  have hbytes : ∃ bytes, bytesOf i = some bytes ∧ bytes.length = n := by
    rcases hi with ⟨rfl, rfl⟩ | ⟨rfl, rfl⟩ | ⟨text, line, rfl, rfl⟩ | ⟨v, isData, rfl, rfl⟩
    · exact ⟨_, rfl, rfl⟩
    · exact ⟨_, rfl, rfl⟩
    · exact ⟨_, rfl, lineBytes_length text line⟩
    · exact ⟨_, rfl, rfl⟩
  obtain ⟨bytes, hbytes, rfl⟩ := hbytes
  rw [← bytesEvents_pinWrites] at hp
  obtain ⟨t, ht, hnew, -⟩ := exec_display_completes (displayEvents_of_bytesOf hbytes) hs ha hp
  obtain ⟨hdelays, hstrobes⟩ := bytesEvents_counts bytes
  rw [← hnew] at hdelays hstrobes
  exact ⟨t, ht, by rw [hnew, bytesEvents_length], by rw [hnew, bytesEvents_pinWrites], hdelays, hstrobes⟩

end Sys2Proof.DisplayProofs
end

section
/-! DisplayDriver, operations under any pin answers: the guard, the one answer, the cut at the first failing pin write, the shape of the
strobes, and the event at each position of SEQ (42_display_driver.md). -/

namespace Sys2Proof.DisplayProofs

open Sys2Proof.Machine Sys2Proof.Safety Sys2Proof.StateProofs Sys2Proof.MemoryProofs Sys2Proof.EncodingProofs

/-! ## The guard -/

/-- A list of steps without a bus call comes to the operation's ending, or to PIN_FAILURE, with no answer before it. -/
theorem runMicros_ends (op : Instr) (k : Nat) {ms : List Micro} (s : State) (hm : ms.all noTransfer = true) :
    ∃ u, u.responses = s.responses ∧
      (runMicros op k ms s = conclude op u ∨
        ∃ l v, runMicros op k ms s = raise .pinFailure (pinSetFailed l v u)) := by
  induction ms generalizing k s with
  | nil => exact ⟨s, rfl, .inl rfl⟩
  | cons m ms ih =>
    rw [List.all_cons, Bool.and_eq_true] at hm
    obtain ⟨hprim, hrest⟩ := hm
    have hnext : ∀ u : State, u.responses = s.responses → ∃ w, w.responses = s.responses ∧
        (runMicros op (k + 1) ms { u with seq := .busy op (k + 1) } = conclude op w ∨
          ∃ l v, runMicros op (k + 1) ms { u with seq := .busy op (k + 1) } =
            raise .pinFailure (pinSetFailed l v w)) := by
      intro u hu
      obtain ⟨w, hw, hend⟩ := ih (k + 1) { u with seq := .busy op (k + 1) } hrest
      exact ⟨w, hw.trans hu, hend⟩
    rw [runMicros]
    generalize hp : perform m s = p
    cases performed_of_eq hp with
    | pinDone | delayDone => exact hnext _ rfl
    | pinFailed l v => exact ⟨_, rfl, .inr ⟨l, v, rfl⟩⟩
    | busDone tx rx prim | busFailed tx prim | busHung tx prim => simp [noTransfer, prim] at hprim

/-- The ending of an operation answers OK, or nothing. -/
theorem conclude_responses (op : Instr) (s : State) :
    (conclude op s).responses = s.responses ∨ ∃ v, (conclude op s).responses = s.responses ++ [.ok v] := by
  unfold conclude
  split
  · unfold answerSample
    split
    · exact .inl rfl
    · exact .inr ⟨_, rfl⟩
  · exact .inr ⟨_, rfl⟩
  · exact .inr ⟨_, rfl⟩
  · exact .inl rfl

/-- NOT_READY is the guard's answer: a display operation that runs answers something else (rules R171, R206). -/
theorem runOperation_not_notReady {i : Instr} {evs : List Event} (hi : displayEvents i = some evs) (s : State) :
    (runOperation i s).responses ≠ s.responses ++ [.failed .notReady] := by
  obtain ⟨-, hnoTransfer⟩ := plan_events i evs hi
  obtain ⟨u, hu, e | ⟨l, v, e⟩⟩ := runMicros_ends i 0 (beginOperation i s) hnoTransfer <;> rw [runOperation, e]
  · rcases conclude_responses i u with h | ⟨v, h⟩ <;> rw [h, hu] <;> simp
  · rw [raise_responses, pinSetFailed_responses, hu]
    simp

/-- Settles O40: past its guard an operation runs, and what runs does not answer NOT_READY. -/
theorem uninitializedDisplayIsNotReady : Obligations.UninitializedDisplayIsNotReady := by
  intro s i hs
  have hruns : ∀ op evs, displayEvents op = some evs → accepted op s →
      ∃ t, exec op s = .next t ∧ t.responses ≠ s.responses ++ [.failed .notReady] :=
    fun op evs hop ha => ⟨_, exec_display op s evs hop hs ha, runOperation_not_notReady hop s⟩
  refine ⟨?_, hruns .lcdInit _ rfl trivial⟩
  rintro (rfl | ⟨text, line, rfl⟩)
  all_goals
    refine ⟨fun hlcdst => exec_responds hs ?_, fun hready => hruns _ _ rfl hready⟩
    rw [hlcdst]
    rfl

/-! ## The first failing pin write -/

/-- Settles O41: the events of the operation's steps are its event list, and the run of the steps stops at the failure. -/
theorem pinFailureTruncatesTheOperation : Obligations.PinFailureTruncatesTheOperation := by
  intro s i before after l v hs ha hi hp hf
  obtain ⟨hevents, hnoTransfer⟩ := plan_events i _ hi
  rw [exec_display i s _ hi hs ha, runOperation,
    runMicros_failure i 0 (plan i) (beginOperation i s) before after l v hnoTransfer hevents hp hf]
  simp only [hs]
  rfl

/-! ## The shape of the strobes (rule R168) -/

theorem strobeShaped_writesLine {as : List Event} (h : as.all writesLine = true) (bs : List Event) :
    strobeShaped (as ++ bs) = strobeShaped bs := by
  induction as with
  | nil => rfl
  | cons ev as ih =>
    rw [List.all_cons, Bool.and_eq_true] at h
    obtain ⟨l, v, rfl, hl⟩ := writesLine_iff.1 h.1
    rw [List.cons_append, ← ih h.2]
    cases l
    case e => exact absurd rfl hl
    all_goals rfl

theorem strobeShaped_strobe (bs : List Event) : strobeShaped (strobeEvents ++ bs) = strobeShaped bs := rfl

theorem strobeShaped_nibbleStrobe (n : Nibble) (bs : List Event) :
    strobeShaped (nibbleStrobe n ++ bs) = strobeShaped bs := by
  rw [nibbleStrobe, List.append_assoc, strobeShaped_writesLine (nibbleEvents_writesLine n), strobeShaped_strobe]

theorem strobeShaped_bytesEvents (bytes : List (Byte × Bool)) : strobeShaped (bytesEvents bytes) = true := by
  induction bytes with
  | nil => rfl
  | cons p ps ih =>
    have hrs : ∀ evs, strobeShaped (.set .rs (rsLevel p.2) :: evs) = strobeShaped evs := fun _ => rfl
    rw [bytesEvents_cons, sendByteEvents_eq, List.cons_append, hrs, List.append_assoc, strobeShaped_nibbleStrobe,
      strobeShaped_nibbleStrobe, ih]

theorem strobeShaped_displayEvents {i : Instr} {evs : List Event} (hi : displayEvents i = some evs) :
    strobeShaped evs = true := by
  cases hb : bytesOf i with
  | some bytes =>
    rw [displayEvents_of_bytesOf hb] at hi
    cases hi
    exact strobeShaped_bytesEvents bytes
  | none =>
    cases i <;> simp [displayEvents, bytesOf] at hi hb <;> subst hi
    case putNibble n =>
      rw [← List.append_nil (nibbleEvents n), strobeShaped_writesLine (nibbleEvents_writesLine n)]
      rfl
    case strobe => rfl

/-- Settles O42: what is added is nothing, or made of the operation's events, and those are whole strobes. -/
theorem strobeShapeIsNeverBroken : Obligations.StrobeShapeIsNeverBroken := by
  intro s t i full _ hi ht
  rcases newEvents_display hi ht with hnone | hmade
  · exact ⟨[], rfl, .inl hnone⟩
  · exact ⟨full, strobeShaped_displayEvents hi, hmade⟩

/-! ## The event at a position of SEQ (rule R182) -/

/-- Every byte makes nineteen events, so position k stands in byte k div 19, at its event k mod 19. -/
theorem bytesEvents_position {bytes : List (Byte × Bool)} {k : Nat} (hk : k < 19 * bytes.length) :
    ∃ b ev, bytes[k / 19]? = some b ∧ (sendByteEvents b.1 b.2)[k % 19]? = some ev ∧
      (bytesEvents bytes)[k]? = some ev := by
  induction bytes generalizing k with
  | nil => exact absurd hk (Nat.not_lt_zero k)
  | cons p ps ih =>
    have hlen := sendByte_length p.1 p.2
    rw [List.length_cons] at hk
    rw [bytesEvents_cons]
    by_cases hfirst : k < 19
    · obtain ⟨ev, hev⟩ : ∃ ev, (sendByteEvents p.1 p.2)[k]? = some ev := ⟨_, List.getElem?_eq_getElem (by omega)⟩
      refine ⟨p, ev, ?_, ?_, ?_⟩
      · rw [Nat.div_eq_of_lt hfirst]
        rfl
      · rw [Nat.mod_eq_of_lt hfirst]
        exact hev
      · rw [List.getElem?_append_left (by omega)]
        exact hev
    · obtain ⟨j, rfl⟩ := Nat.exists_eq_add_of_le' (Nat.le_of_not_lt hfirst)
      obtain ⟨b, ev, hb, hev, hall⟩ := ih (k := j) (by omega)
      refine ⟨b, ev, ?_, ?_, ?_⟩
      · rw [Nat.add_div_right j (by omega), List.getElem?_cons_succ]
        exact hb
      · rw [Nat.add_mod_right]
        exact hev
      · rw [List.getElem?_append_right (by omega), hlen, Nat.add_sub_cancel]
        exact hall

/-- A call is allowed where the next pin write completes, or where it is a delay. -/
theorem pinsAllow_event {o : Script PinAnswer} {ev : Event} (h : o.head = .ok ∨ ∃ d, ev = .dly d) :
    pinsAllow (pinWrites [ev]) o = true := by
  rcases h with h | ⟨d, rfl⟩
  · have hone : pinsAllow 1 o = true := by simp [pinsAllow, h]
    exact pinsAllow_of_le List.countP_le_length hone
  · rfl

/-- The end of an operation adds no event. -/
theorem conclude_trace (op : Instr) (s : State) : (conclude op s).trace = s.trace := by
  obtain ⟨-, -, -, -, htrace, -⟩ := conclude_cases op s
  exact htrace

/-- However an event leaves the operation in progress, the step's trace is the event's. -/
theorem resume_trace {op : Instr} {k : Nat} {m : Micro} (s : State) (hk : (plan op)[k]? = some m) :
    ∃ t, resume op k s = .next t ∧ t.trace = (stateOf (perform m s)).trace := by
  rcases resume_cases op k s with ⟨hle, -⟩ | ⟨m', hm', hcases⟩
  · rw [List.getElem?_eq_none_iff.2 hle] at hk
    cases hk
  · cases hm'.symm.trans hk
    rcases hcases with ⟨u, hp, -, e⟩ | ⟨u, hp, -, e⟩ | ⟨u, hp, e⟩ | ⟨u, hp, e⟩ <;> refine ⟨_, e, ?_⟩ <;> rw [hp]
    · exact conclude_trace op _
    all_goals rfl

/-- A pin write that fails adds its SET_FAIL (rule R177). -/
theorem perform_failed_trace {m : Micro} {s : State} {l : Line} {v : Level} (hev : eventOf m = .set l v)
    (hf : s.pins.head = .fails) : (stateOf (perform m s)).trace = s.trace ++ [.setFail l v] := by
  obtain ⟨ws, p⟩ := m
  cases p with
  | pin l' v' =>
    cases hev
    rw [perform_failed ws l v s hf]
    rfl
  | transfer | delay => cases hev

/-- Settles O14: the step makes the event of its position, or that write's SET_FAIL. -/
theorem eventOfASequencerPosition : Obligations.EventOfASequencerPosition := by
  intro s op bytes k hop hs hk
  have hbytes : bytesOf op = some bytes := by rcases hop with ⟨rfl, rfl⟩ | ⟨text, line, rfl, rfl⟩ <;> rfl
  obtain ⟨hevents, hnoTransfer⟩ := plan_events op _ (displayEvents_of_bytesOf hbytes)
  obtain ⟨b, ev, hb, hev, hall⟩ := bytesEvents_position hk
  rw [← hevents, List.getElem?_map, Option.map_eq_some_iff] at hall
  obtain ⟨m, hm, rfl⟩ := hall
  obtain ⟨t, ht, htrace⟩ := resume_trace s hm
  refine ⟨b, eventOf m, t, hb, hev, by rw [step, hs]; exact ht, fun hdone => ?_, fun l v hf hset => ?_⟩
  · have hprim := List.all_eq_true.1 hnoTransfer m (List.mem_of_getElem? hm)
    rw [htrace, perform_done m s hprim (pinsAllow_event hdone)]
    rfl
  · rw [htrace, perform_failed_trace hset hf]

end Sys2Proof.DisplayProofs
end

section
/-! DisplayDriver, what the reference display shows after a completed operation: a written line, and all cells blank (rules R50, R180,
R241). -/

namespace Sys2Proof.DisplayProofs

open Sys2Proof.Machine Sys2Proof.Safety Sys2Proof.MemoryProofs

/-! ## Bytes at a display in step -/

/-- A data byte on a display in step with a known cursor (rule R50). -/
theorem watch_dataByte (lv : Levels) (v : Byte) {d : Display} {row : LineSel} {col : Nat} (hd : inStep d)
    (hcursor : d.cursor = .at row col) (hcol : col < 16) :
    inStep (watch lv (sendByteEvents v true) d) ∧ (watch lv (sendByteEvents v true) d).cursor = .at row (col + 1) ∧
      (watch lv (sendByteEvents v true) d).cells = Memory.write d.cells (cellAddress row col) v := by
  obtain ⟨k, k', hwatch⟩ := watch_sendByteEvents_of_inStep lv v true hd (nextSync_data_ne_four _ _)
    (nextSync_data_ne_four _ _)
  have htake : Display.takeByte true v { d with half := .first, strobe := .unsettled, sync := k } =
      { cells := Memory.write d.cells (cellAddress row col) v, cursor := .at row (col + 1), half := .first,
        strobe := .unsettled, sync := k } := by
    simp [Display.takeByte, Display.takeData, hcursor, Config.lcdCols, hcol]
  rw [hwatch, htake]
  exact ⟨⟨rfl, .inl rfl⟩, rfl, rfl⟩

/-- A command byte of the map writes at most the cells and the cursor (rule R50). -/
theorem takeCommand_of_mem {v : Byte} (hv : v ∈ commandBytes) (d : Display) :
    ∃ cells cursor, Display.takeCommand v d = { d with cells := cells, cursor := cursor } := by
  have hcases : v = 0x33 ∨ v = 0x32 ∨ v = 0x06 ∨ v = 0x0C ∨ v = 0x28 ∨ v = 0x01 ∨ v = 0x80 ∨ v = 0xC0 := by
    simpa [commandBytes] using hv
  rcases hcases with rfl | rfl | rfl | rfl | rfl | rfl | rfl | rfl <;> exact ⟨_, _, rfl⟩

theorem nextSync_ne_four_of_sync {k : Nat} (hk : k ≠ 3) (rs : Bool) (n : Nibble) : nextSync rs n k ≠ 4 := by
  unfold nextSync
  split
  · exact nofun
  · split
    · omega
    · rw [if_neg (fun h => hk h.2)]
      exact nofun

/-- A command byte that does not complete the bootstrapping is taken as it is, and the display stays in step. -/
theorem watch_command (lv : Levels) {v : Byte} {d : Display} (hv : v ∈ commandBytes) (hd : inStep d)
    (hhigh : highNibble v ≠ 2 ∨ d.sync ≠ 3) (hlow : lowNibble v ≠ 2) :
    inStep (watch lv (sendByteEvents v false) d) ∧
      ∃ k k', watch lv (sendByteEvents v false) d =
        { Display.takeCommand v { d with half := .first, strobe := .unsettled, sync := k } with sync := k' } := by
  have hsync : nextSync false (highNibble v) d.sync ≠ 4 := by
    rcases hhigh with h | h
    · exact nextSync_ne_four h _ _
    · exact nextSync_ne_four_of_sync h _ _
  obtain ⟨k, k', hwatch⟩ := watch_sendByteEvents_of_inStep lv v false hd hsync (nextSync_ne_four hlow _ _)
  refine ⟨?_, k, k', hwatch⟩
  obtain ⟨cells, cursor, htake⟩ := takeCommand_of_mem hv { d with half := .first, strobe := .unsettled, sync := k }
  have hbyte : ∀ d', Display.takeByte false v d' = Display.takeCommand v d' := fun _ => rfl
  rw [hwatch, hbyte, htake]
  exact ⟨rfl, .inl rfl⟩

/-- The line-address command puts the cursor at the row's first column and writes no cell (rules R50, R82). -/
theorem watch_rowCommand (lv : Levels) (row : LineSel) {d : Display} (hd : inStep d) :
    inStep (watch lv (sendByteEvents (rowCommand row) false) d) ∧
      (watch lv (sendByteEvents (rowCommand row) false) d).cursor = .at row 0 ∧
      (watch lv (sendByteEvents (rowCommand row) false) d).cells = d.cells := by
  have hv : rowCommand row ∈ commandBytes := by cases row <;> decide
  have hhigh : highNibble (rowCommand row) ≠ 2 := by cases row <;> decide
  have hlow : lowNibble (rowCommand row) ≠ 2 := by cases row <;> decide
  obtain ⟨hstep, k, k', hwatch⟩ := watch_command lv hv hd (.inl hhigh) hlow
  refine ⟨hstep, ?_, ?_⟩ <;> rw [hwatch] <;> cases row <;> rfl

/-! ## A written line -/

/-- Bytes written one after the other from an address on. -/
def writeCells : Memory → Nat → List Byte → Memory
  | m, _, [] => m
  | m, a, b :: bs => writeCells (Memory.write m a b) (a + 1) bs

/-- A row of bytes leaves every cell outside it. -/
theorem read_writeCells_outside {bs : List Byte} (m : Memory) {a x : Nat} (h : x < a ∨ a + bs.length ≤ x) :
    Memory.read (writeCells m a bs) x = Memory.read m x := by
  induction bs generalizing m a with
  | nil => rfl
  | cons b bs ih =>
    rw [List.length_cons] at h
    rw [writeCells, ih _ (by omega), read_write_other _ _ _ _ (by omega)]

/-- A row of bytes is read back byte by byte. -/
theorem read_writeCells_inside {bs : List Byte} (m : Memory) (a : Nat) {i : Nat} (h : i < bs.length) :
    Memory.read (writeCells m a bs) (a + i) = bs[i]? := by
  induction bs generalizing m a i with
  | nil => exact absurd h (Nat.not_lt_zero i)
  | cons b bs ih =>
    rw [writeCells]
    cases i with
    | zero =>
      rw [read_writeCells_outside _ (.inl (by omega))]
      exact read_write_same m a b
    | succ i =>
      have hshift : a + (i + 1) = a + 1 + i := by omega
      rw [hshift]
      exact ih _ _ (Nat.lt_of_succ_lt_succ h)

/-- Data bytes up to the end of the row land side by side from the cursor on. -/
theorem watch_dataBytes (lv : Levels) {bs : List Byte} {d : Display} {row : LineSel} {col : Nat} (hd : inStep d)
    (hcursor : d.cursor = .at row col) (hlen : col + bs.length ≤ 16) :
    inStep (watch lv (bytesEvents (bs.map (fun b => (b, true)))) d) ∧
      (watch lv (bytesEvents (bs.map (fun b => (b, true)))) d).cells = writeCells d.cells (cellAddress row col) bs := by
  induction bs generalizing lv d col with
  | nil => exact ⟨hd, rfl⟩
  | cons b bs ih =>
    rw [List.length_cons] at hlen
    obtain ⟨hstep, hmoved, hcells⟩ := watch_dataByte lv b hd hcursor (by omega)
    obtain ⟨hstep', hcells'⟩ := ih (linesAfter lv (sendByteEvents b true)) hstep hmoved (by omega)
    rw [List.map_cons, bytesEvents_cons, watch_append]
    refine ⟨hstep', ?_⟩
    rw [hcells', hcells]
    rfl

/-- Settles O47: the address command puts the cursor at the row's start, and the sixteen bytes fill the row from there. -/
theorem displayShowsTheWrittenLine : Obligations.DisplayShowsTheWrittenLine := by
  intro s text line hs hready hp hd
  have hwrites : pinWrites (bytesEvents (lineBytes text line)) = 221 := by
    rw [bytesEvents_pinWrites, lineBytes_length]
  obtain ⟨t, ht, -, hdisplay⟩ :=
    exec_display_completes (i := .lcdWriteLine text line) rfl hs hready (by rw [hwrites]; exact hp)
  have hlen := paddedText_length text
  obtain ⟨hrow, hcursor, hkept⟩ := watch_rowCommand s.lvl line hd
  obtain ⟨hstep, hcells⟩ :=
    watch_dataBytes (bs := paddedText text) (linesAfter s.lvl (sendByteEvents (rowCommand line) false)) hrow hcursor
      (by omega)
  rw [lineBytes, bytesEvents_cons, watch_append] at hdisplay
  rw [← hdisplay] at hstep hcells
  rw [hkept] at hcells
  refine ⟨t, ht, hstep, fun col hcol => ?_, fun a ha => ?_⟩ <;> rw [hcells]
  · exact read_writeCells_inside s.display.cells (cellAddress line 0) (by omega)
  · refine read_writeCells_outside _ (ha.imp_right fun h => ?_)
    rw [hlen]
    exact h

/-! ## All cells blank -/

/-- Cells that all hold one byte. -/
theorem read_map_const (f : Nat → Nat) (b : Byte) (cols : List Nat) (a : Nat) :
    Memory.read (cols.map (fun c => (f c, b))) a = if ∃ c ∈ cols, f c = a then some b else none := by
  induction cols with
  | nil => simp
  | cons c cols ih =>
    rw [List.map_cons, Memory.read, ih]
    by_cases hc : f c = a <;> simp [hc]

theorem read_append (m m' : Memory) (a : Nat) :
    Memory.read (m ++ m') a = (Memory.read m a).or (Memory.read m' a) := by
  induction m with
  | nil => rfl
  | cons c m ih =>
    rw [List.cons_append, Memory.read, Memory.read, ih]
    split <;> rfl

theorem read_blankRow (row : LineSel) (a : Nat) :
    Memory.read (blankRow row) a = if rowBase row ≤ a ∧ a < rowBase row + 16 then some 0x20 else none := by
  have hcell : (∃ c ∈ List.range Config.lcdCols, cellAddress row c = a) ↔ rowBase row ≤ a ∧ a < rowBase row + 16 := by
    constructor
    · rintro ⟨c, hc, rfl⟩
      have hlt : c < 16 := List.mem_range.1 hc
      exact ⟨Nat.le_add_right _ _, Nat.add_lt_add_left hlt _⟩
    · rintro ⟨hlow, hhigh⟩
      obtain ⟨c, rfl⟩ := Nat.exists_eq_add_of_le hlow
      exact ⟨c, List.mem_range.2 (Nat.lt_of_add_lt_add_left hhigh), rfl⟩
  rw [blankRow, read_map_const]
  simp only [hcell]
  rfl

/-- The clear command leaves a blank in every cell there is, and nothing elsewhere (rule R50, entry 10). -/
theorem read_blankCells (a : Nat) : Memory.read blankCells a = if isCell a = true then some 0x20 else none := by
  rw [blankCells, read_append, read_blankRow, read_blankRow]
  by_cases h1 : 128 ≤ a ∧ a < 144 <;> by_cases h2 : 192 ≤ a ∧ a < 208 <;> simp [isCell, rowBase, h1, h2]

/-- The clear command on a display in step (rule R50). -/
theorem watch_clear (lv : Levels) {d : Display} (hd : inStep d) :
    inStep (watch lv (sendByteEvents 0x01 false) d) ∧
      (watch lv (sendByteEvents 0x01 false) d).cells = blankCells := by
  obtain ⟨hstep, k, k', hwatch⟩ := watch_command lv (v := 0x01) (by decide) hd (.inl (by decide)) (by decide)
  refine ⟨hstep, ?_⟩
  rw [hwatch]
  rfl

/-! ## The bootstrapping (rules R52, R241) -/

theorem seeLine_strobe (d : Display) : d.seeLine.strobe = .unsettled := by
  unfold Display.seeLine
  split
  case h_1 h => exact h
  all_goals rfl

/-- The write of RS ends whatever strobe was under way, so a byte finds any display outside a strobe (rule R51). -/
theorem watch_sendByteEvents_any (lv : Levels) (v : Byte) (rs : Bool) (d : Display) :
    watch lv (sendByteEvents v rs) d = (d.seeLine.latch rs (highNibble v)).latch rs (lowNibble v) := by
  have hstrobe := seeLine_strobe d
  have hagain : d.seeLine.seeLine = d.seeLine := by
    rw [Display.seeLine, hstrobe]
  have hsame : ({ d.seeLine with strobe := .unsettled } : Display) = d.seeLine := by rw [← hstrobe]
  have hset : ∀ lv' d', Display.observe lv' (.set .rs (rsLevel rs)) d' = d'.seeLine := fun _ _ => rfl
  have hfirst : watch lv (sendByteEvents v rs) d = watch lv (sendByteEvents v rs) d.seeLine := by
    rw [sendByteEvents_eq, watch, watch, hset, hset, hagain]
  rw [hfirst, watch_sendByteEvents lv v rs (.inl hstrobe), hsame]

theorem watch_sendByteEvents_strobe (lv : Levels) (v : Byte) (rs : Bool) (d : Display) :
    (watch lv (sendByteEvents v rs) d).strobe = .unsettled := by
  rw [watch_sendByteEvents_any]
  exact latch_strobe rs _ (latch_strobe rs _ (seeLine_strobe d))

/-- Only the nibble 3 leaves a bootstrapping half done. -/
theorem latch_sync {n : Nibble} (hn : n ≠ 3) (rs : Bool) (d : Display) : (d.latch rs n).sync = 0 := by
  have hnext : nextSync rs n d.sync = 0 ∨ nextSync rs n d.sync = 4 := by
    unfold nextSync
    rw [if_neg hn]
    split
    · exact .inl rfl
    · split
      · exact .inr rfl
      · exact .inl rfl
  unfold Display.latch
  rcases hnext with h | h <;> rw [h] <;> rfl

theorem watch_sendByteEvents_sync (lv : Levels) {v : Byte} (hv : lowNibble v ≠ 3) (rs : Bool) (d : Display) :
    (watch lv (sendByteEvents v rs) d).sync = 0 := by
  rw [watch_sendByteEvents_any]
  exact latch_sync hv rs _

/-- A command nibble 3 is one more of the bootstrapping, of which three are enough. -/
theorem latch_three_sync (d : Display) : (d.latch false 3).sync = min (d.sync + 1) 3 := by
  have hnext : nextSync false 3 d.sync = min (d.sync + 1) 3 := rfl
  have hne : min (d.sync + 1) 3 ≠ 4 := by omega
  rw [Display.latch, hnext, if_neg hne]

/-- The nibble 2 after three nibbles 3 brings the pairing into step. -/
theorem latch_two_half {d : Display} (hd : d.sync = 3) : (d.latch false 2).half = .first := by
  have hnext : nextSync false 2 d.sync = 4 := by rw [hd]; rfl
  rw [Display.latch, if_pos hnext]

/-- The first two bytes of LCD_INIT, the nibbles 3, 3, 3, 2, bring any display into step. -/
theorem inStep_bootstrap (lv : Levels) (d : Display) :
    inStep (watch lv (bytesEvents [(0x33, false), (0x32, false)]) d) := by
  have hnibbles : highNibble 0x33 = 3 ∧ lowNibble 0x33 = 3 ∧ highNibble 0x32 = 3 ∧ lowNibble 0x32 = 2 := by decide
  obtain ⟨h33, l33, h32, l32⟩ := hnibbles
  have htwice : 2 ≤ (watch lv (sendByteEvents 0x33 false) d).sync := by
    rw [watch_sendByteEvents_any, h33, l33, latch_three_sync, latch_three_sync]
    omega
  have hstrobe := watch_sendByteEvents_strobe lv 0x33 false d
  rw [bytesEvents_cons, watch_append]
  generalize watch lv (sendByteEvents 0x33 false) d = d' at htwice hstrobe ⊢
  refine ⟨?_, .inl ?_⟩ <;> rw [bytesEvents_singleton]
  · rw [watch_sendByteEvents _ _ _ (.inl hstrobe), h32, l32]
    apply latch_two_half
    rw [latch_three_sync]
    exact Nat.min_eq_right (Nat.succ_le_succ htwice)
  · exact watch_sendByteEvents_strobe _ _ _ _

/-- The four bytes of LCD_INIT after the bootstrapping, on a display in step: 0x28, whose high nibble is 2, comes after a nibble that is
no 3, so the bootstrapping is not taken a second time. -/
theorem watch_setup (lv : Levels) {d : Display} (hd : inStep d) :
    inStep (watch lv (bytesEvents [(0x06, false), (0x0C, false), (0x28, false), (0x01, false)]) d) ∧
      (watch lv (bytesEvents [(0x06, false), (0x0C, false), (0x28, false), (0x01, false)]) d).cells = blankCells := by
  simp only [bytesEvents_cons (0x06, false), bytesEvents_cons (0x0C, false), bytesEvents_cons (0x28, false),
    bytesEvents_singleton, watch_append]
  obtain ⟨h06, -⟩ := watch_command lv (v := 0x06) (by decide) hd (.inl (by decide)) (by decide)
  obtain ⟨h0C, -⟩ :=
    watch_command (linesAfter lv (sendByteEvents 0x06 false)) (v := 0x0C) (by decide) h06 (.inl (by decide)) (by decide)
  have hsync := watch_sendByteEvents_sync (linesAfter lv (sendByteEvents 0x06 false)) (v := 0x0C) (by decide) false
    (watch lv (sendByteEvents 0x06 false) d)
  obtain ⟨h28, -⟩ := watch_command
    (linesAfter (linesAfter lv (sendByteEvents 0x06 false)) (sendByteEvents 0x0C false)) (v := 0x28) (by decide) h0C
    (.inr (by rw [hsync]; exact nofun)) (by decide)
  exact watch_clear _ h28

/-- Six bytes blank any display: two bring it into step, the last is the clear command. -/
theorem watch_init (lv : Levels) (d : Display) :
    inStep (watch lv (bytesEvents initBytes) d) ∧ (watch lv (bytesEvents initBytes) d).cells = blankCells := by
  have hsplit : initBytes =
      [(0x33, false), (0x32, false)] ++ [(0x06, false), (0x0C, false), (0x28, false), (0x01, false)] := rfl
  rw [hsplit, bytesEvents_append, watch_append]
  exact watch_setup _ (inStep_bootstrap lv d)

/-- Settles O48, by what the display makes of the bytes each operation sends. -/
theorem initAndClearBlankTheDisplay : Obligations.InitAndClearBlankTheDisplay := by
  refine ⟨fun s hs hp => ?_, fun s hs hready hp hd => ?_⟩
  · rw [← initBytes_pinWrites] at hp
    obtain ⟨t, ht, -, hdisplay⟩ := exec_display_completes (i := .lcdInit) rfl hs trivial hp
    obtain ⟨hstep, hcells⟩ := watch_init s.lvl s.display
    rw [← hdisplay] at hstep hcells
    exact ⟨t, ht, hstep, fun a => by rw [hcells, read_blankCells]⟩
  · obtain ⟨t, ht, hdisplay⟩ := exec_byte_completes (i := .lcdClear) rfl hs hready hp
    obtain ⟨hstep, hcells⟩ := watch_clear s.lvl hd
    rw [← hdisplay] at hstep hcells
    exact ⟨t, ht, hstep, fun a => by rw [hcells, read_blankCells]⟩

end Sys2Proof.DisplayProofs
end

section
/-! Exceptions, the answers: what an Idle core makes of its inbox, the one answer of every request, INVALID_ARGUMENT, and the recovery
from PIN_FAILURE (60_exceptions.md). -/

namespace Sys2Proof.ExceptionProofs

open Sys2Proof.Machine Sys2Proof.Safety Sys2Proof.StateProofs Sys2Proof.MemoryProofs Sys2Proof.EncodingProofs
  Sys2Proof.AdcReaderProofs Sys2Proof.DisplayProofs

/-! ## An Idle core -/

/-- Settles O10, by the courses of `step` that an Idle core leaves open. -/
theorem idleCoreWaitsOrRefuses : Obligations.IdleCoreWaitsOrRefuses := by
  refine ⟨fun s hs hinbox => ?_, fun s p rest e hs hinbox hdecode => ?_⟩
  · rcases step_cases s with ⟨op, k, hb, -⟩ | ⟨-, -, hstep⟩ | ⟨p, rest, i, -, hi, -⟩ | ⟨p, rest, e, -, hi, -⟩
    · rw [hs] at hb; cases hb
    · exact hstep
    all_goals rw [hinbox] at hi; cases hi
  · rcases step_cases s with ⟨op, k, hb, -⟩ | ⟨-, hi, -⟩ | ⟨p', rest', i, -, hi, hd, -⟩ | ⟨p', rest', e', -, hi, hd, hstep⟩
    · rw [hs] at hb; cases hb
    all_goals rw [hinbox] at hi; cases hi
    all_goals rw [hdecode] at hd; cases hd
    exact hstep

/-! ## The course taken -/

/-- An instruction that goes on has taken the course of its response, or the course of its event list. -/
theorem exec_next_course {i : Instr} {s t : State} (h : exec i s = .next t) :
    s.seq = .idle ∧ ((∃ r, course s.lcdst s.cfg.roundMode i = .responds r ∧ t = answer r s) ∨
      course s.lcdst s.cfg.roundMode i = .runs ∧ t = runOperation i s) := by
  rw [exec_eq_outcome] at h
  cases hc : course s.lcdst s.cfg.roundMode i with
  | responds r =>
    rw [hc] at h
    obtain ⟨hs, rfl⟩ := whenIdle_next.1 h
    exact ⟨hs, .inl ⟨r, rfl, rfl⟩⟩
  | runs =>
    rw [hc] at h
    obtain ⟨hs, rfl⟩ := whenIdle_next.1 h
    exact ⟨hs, .inr ⟨rfl, rfl⟩⟩
  | reserved code =>
    rw [hc] at h
    cases h

/-- Neither LCDST nor ROUND_MODE decides whether an operation is answered INVALID_ARGUMENT at once (rule R202). -/
theorem course_invalidArgument {i : Instr} {lcdst : LcdState} {mode : RoundMode}
    (h : course lcdst mode i = .responds (.failed .invalidArgument)) (lcdst' : LcdState) (mode' : RoundMode) :
    course lcdst' mode' i = .responds (.failed .invalidArgument) := by
  cases i
  case convert sample model places =>
    by_cases hm : model.fullScaleCode ≤ 0
    · exact if_pos hm
    · rw [course, if_neg hm] at h; cases h
  case lcdClear | lcdWriteLine => cases lcdst <;> cases h
  all_goals exact h

/-- A display operation that does not run is refused by its guard (rule R171). -/
theorem course_display {i : Instr} {lcdst : LcdState} {mode : RoundMode} {r : Response}
    (hi : (displayEvents i).isSome = true) (h : course lcdst mode i = .responds r) : r = .failed .notReady := by
  cases i
  case lcdClear | lcdWriteLine => cases lcdst <;> cases h; rfl
  case lcdInit | sendByte | putNibble | strobe | lcdCmdInit0 | lcdCmdInit1 | lcdCmdInit2 | lcdCmdInit3 | lcdCmdInit4 |
      lcdCmdClear | lcdCmdSetLine1 | lcdCmdSetLine2 | lcdData => cases h
  all_goals exact absurd hi Bool.false_ne_true

/-- A request that runs an event list is READ_CHANNEL, or a display operation whose ending answers OK (rules R83, R91). -/
theorem hostOperation_runs {i : Instr} {lcdst : LcdState} {mode : RoundMode} (hi : hostOperation i = true)
    (h : course lcdst mode i = .runs) :
    (∃ channel, i = .readChannel channel) ∨
      ∃ evs, displayEvents i = some evs ∧ ∀ u, (conclude i u).responses = u.responses ++ [.ok .none] := by
  cases i
  case readChannel channel => exact .inl ⟨channel, rfl⟩
  case lcdInit | lcdClear | lcdWriteLine => exact .inr ⟨_, rfl, fun _ => rfl⟩
  case convert sample model places => rw [course] at h; split at h <;> cases h
  case reservedOpc5 | reservedOpc6 | reservedOpc7 => cases h
  all_goals exact absurd hi Bool.false_ne_true

/-! ## One answer -/

/-- The operation between the two states is over, with one answer to the host (rule R207). -/
def AnsweredWith (r : Response) (s t : State) : Prop :=
  t.responses = s.responses ++ [r] ∧ t.seq = .idle

/-- What READ_CHANNEL's exchange comes to: the sample, BUS_FAILURE, or nothing on a bus that never returns (rules R113, R115, R119). -/
theorem runOperation_readChannel_answers (channel : Int) (s : State) :
    (∃ v, AnsweredWith (.ok v) s (runOperation (.readChannel channel) s)) ∨
      AnsweredWith (.failed .busFailure) s (runOperation (.readChannel channel) s) ∨
      (s.bus.head = .never ∧ (runOperation (.readChannel channel) s).responses = s.responses) := by
  have hplan : plan (.readChannel channel) = transferPlan channel := rfl
  rcases busTransfer_cases (commandFrame channel) s with ⟨b0, b1, b2, hbus, -⟩ | ⟨hbus, -⟩ | ⟨hbus, -⟩
  · rw [runOperation_transfer_returns hplan hbus]
    exact .inl ⟨_, rfl, rfl⟩
  · rw [runOperation_transfer_fails hplan hbus]
    exact .inr (.inl ⟨rfl, rfl⟩)
  · rw [runOperation_transfer_never hplan hbus]
    exact .inr (.inr ⟨hbus, rfl⟩)

/-- What a display operation with an answer comes to: OK, or PIN_FAILURE (rules R172, R173, R175, R177). -/
theorem runOperation_display_answers {i : Instr} {evs : List Event} (hi : displayEvents i = some evs)
    (hend : ∀ u, (conclude i u).responses = u.responses ++ [.ok .none]) (s : State) :
    AnsweredWith (.ok .none) s (runOperation i s) ∨ AnsweredWith (.failed .pinFailure) s (runOperation i s) := by
  obtain ⟨-, hnoTransfer⟩ := plan_events i evs hi
  obtain ⟨u, hu, e | ⟨l, v, e⟩⟩ := runMicros_ends i 0 (beginOperation i s) hnoTransfer <;> rw [runOperation, e]
  · obtain ⟨hseq, -⟩ := conclude_cases i u
    exact .inl ⟨(hend u).trans (congrArg (· ++ [Response.ok .none]) hu), hseq⟩
  · exact .inr ⟨congrArg (· ++ [Response.failed .pinFailure]) hu, rfl⟩

/-- A request that runs is answered once, and not INVALID_ARGUMENT, or it is READ_CHANNEL on a bus that never returns. -/
theorem hostOperation_run_answers {i : Instr} {s : State} (hi : hostOperation i = true)
    (hc : course s.lcdst s.cfg.roundMode i = .runs) :
    (∃ r, r ≠ .failed .invalidArgument ∧ AnsweredWith r s (runOperation i s)) ∨
      (s.bus.head = .never ∧ (runOperation i s).responses = s.responses ∧ ∃ channel : Int, i = .readChannel channel) := by
  rcases hostOperation_runs hi hc with ⟨channel, rfl⟩ | ⟨evs, hevs, hend⟩
  · rcases runOperation_readChannel_answers channel s with ⟨v, h⟩ | h | ⟨hbus, h⟩
    · exact .inl ⟨.ok _, nofun, h⟩
    · exact .inl ⟨.failed .busFailure, nofun, h⟩
    · exact .inr ⟨hbus, h, channel, rfl⟩
  · rcases runOperation_display_answers hevs hend s with h | h
    · exact .inl ⟨.ok .none, nofun, h⟩
    · exact .inl ⟨.failed .pinFailure, nofun, h⟩

/-- Settles O54: a request responds at once, or runs. -/
theorem everyRequestIsAnsweredOnceUnlessTheBusHangs : Obligations.EveryRequestIsAnsweredOnceUnlessTheBusHangs := by
  intro i s t hi ht
  obtain ⟨-, ⟨r, -, rfl⟩ | ⟨hc, rfl⟩⟩ := exec_next_course ht
  · exact .inl ⟨r, rfl, rfl⟩
  · exact (hostOperation_run_answers hi hc).imp_left fun ⟨r, _, h⟩ => ⟨r, h⟩

/-! ## INVALID_ARGUMENT -/

/-- A request answered INVALID_ARGUMENT has not run: the answer is its whole course (rules R202, R205). -/
theorem course_of_invalidArgument {i : Instr} {s t : State} (hi : hostOperation i = true) (ht : exec i s = .next t)
    (hresp : t.responses = s.responses ++ [.failed .invalidArgument]) :
    course s.lcdst s.cfg.roundMode i = .responds (.failed .invalidArgument) := by
  obtain ⟨-, ⟨r, hc, rfl⟩ | ⟨hc, rfl⟩⟩ := exec_next_course ht
  · obtain rfl : r = .failed .invalidArgument := by simpa using hresp
    exact hc
  · rcases hostOperation_run_answers hi hc with ⟨r, hr, hanswer, -⟩ | ⟨-, hnone, -⟩
    · rw [hanswer] at hresp
      exact absurd (by simpa using hresp) hr
    · rw [hnone] at hresp
      simp at hresp

/-- Settles O53: the operation's course is the response, here and in every other state. -/
theorem invalidArgumentDependsOnOperandsOnly : Obligations.InvalidArgumentDependsOnOperandsOnly := by
  intro i s t hi ht hresp
  have hcourse := course_of_invalidArgument hi ht hresp
  obtain ⟨hs, -⟩ := exec_next ht
  refine ⟨?_, fun s' hs' => ⟨_, exec_responds hs' (course_invalidArgument hcourse _ _), rfl, rfl⟩⟩
  rw [exec_responds hs hcourse] at ht
  cases ht
  rfl

/-! ## Recovery from PIN_FAILURE -/

/-- A display operation that is answered PIN_FAILURE leaves the driver Uninitialized and the core Idle (rules R177, R207). -/
theorem pinFailure_leaves {i : Instr} {s t : State} (hi : (displayEvents i).isSome = true) (ht : exec i s = .next t)
    (hresp : t.responses = s.responses ++ [.failed .pinFailure]) : t.seq = .idle ∧ t.lcdst = .uninitialized := by
  obtain ⟨-, ⟨r, hc, rfl⟩ | ⟨-, rfl⟩⟩ := exec_next_course ht
  · rw [course_display hi hc, answer_responses] at hresp
    simp at hresp
  · obtain ⟨evs, hevs⟩ := Option.isSome_iff_exists.1 hi
    obtain ⟨-, hnoTransfer⟩ := plan_events i evs hevs
    obtain ⟨u, hu, e | ⟨l, v, e⟩⟩ := runMicros_ends i 0 (beginOperation i s) hnoTransfer <;>
      rw [runOperation, e] at hresp ⊢
    · rcases conclude_responses i u with h | ⟨v, h⟩ <;> rw [h, hu] at hresp <;> simp at hresp
    · exact ⟨rfl, rfl⟩

/-- Settles O55: the state left is Uninitialized and Idle, where the guard refuses and LCD_INIT is accepted. -/
theorem pinFailureIsRecoveredByInit : Obligations.PinFailureIsRecoveredByInit := by
  intro i s t hi ht hresp
  obtain ⟨hidle, hlcdst⟩ := pinFailure_leaves hi ht hresp
  have hguard : ∀ op, (op = .lcdClear ∨ ∃ text line, op = .lcdWriteLine text line) →
      ∃ u, exec op t = .next u ∧ u.responses = t.responses ++ [.failed .notReady] := fun op hop =>
    ⟨_, ((uninitializedDisplayIsNotReady t op hidle).1 hop).1 hlcdst, rfl⟩
  exact ⟨hguard _ (.inl rfl), fun text line => hguard _ (.inr ⟨text, line, rfl⟩),
    fun hp => ⟨_, exec_lcdInit_completes hidle hp, rfl⟩⟩

end Sys2Proof.ExceptionProofs
end

section
/-! Reset and hazards: what a second reset restores (rule R240), and the lower bounds on durations, which come from counting delays (rules
R253, R254). -/

namespace Sys2Proof.ResetProofs

open Sys2Proof.Machine Sys2Proof.Safety Sys2Proof.StateProofs Sys2Proof.MemoryProofs Sys2Proof.DisplayProofs

/-! ## A second reset -/

/-- A second reset leaves the six lines as reset does. -/
theorem secondReset_lvl (s : State) : (secondReset s).lvl = State.reset.lvl := rfl

/-- Settles O8: the core's elements are those of reset (O5), and the others are carried over. -/
theorem secondResetRestoresTheCoreOnly : Obligations.SecondResetRestoresTheCoreOnly := by
  intro s
  obtain ⟨hlcdst, hseq, hlines, hlocals, -⟩ := resetLeavesTheStateOfTheSpec
  exact ⟨hlcdst, hseq, fun l => by rw [secondReset_lvl, hlines], hlocals, rfl, rfl, rfl⟩

/-! ## Time, from the delays -/

/-- The events of a list take their times one after the other. -/
theorem minDuration_cons (c : Cfg) (ev : Event) (evs : List Event) :
    minDuration c (ev :: evs) = minDuration c [ev] + minDuration c evs := by
  cases ev with
  | dly d => cases d <;> rfl
  | set | setFail | xfer | xferFail => exact (Nat.zero_add _).symm

/-- One delay of either kind lasts 500 microseconds or more (rule R13); no other event counts. -/
theorem delays_singleton_le_minDuration {c : Cfg} (hc : legalCfg c) (ev : Event) :
    500 * delays [ev] ≤ minDuration c [ev] := by
  obtain ⟨-, hsettle, hpulse⟩ := hc
  cases ev with
  | dly d =>
    cases d with
    | settle => exact hsettle
    | pulse => exact hpulse
  | set | setFail | xfer | xferFail => exact Nat.zero_le _

/-- Under a legal CFG, events last at least 500 microseconds for each delay among them (rule R253). -/
theorem delays_le_minDuration {c : Cfg} (hc : legalCfg c) (evs : List Event) :
    500 * delays evs ≤ minDuration c evs := by
  induction evs with
  | nil => exact Nat.zero_le _
  | cons ev evs ih =>
    have hhead := delays_singleton_le_minDuration hc ev
    have hdelays : delays (ev :: evs) = delays [ev] + delays evs := delays_append [ev] evs
    rw [hdelays, minDuration_cons]
    omega

/-! ## The operations -/

/-- A completed display operation lasts as long as the delays of its events ask. -/
theorem exec_display_minDuration {i : Instr} {s : State} {evs : List Event} (hi : displayEvents i = some evs)
    (hs : s.seq = .idle) (ha : accepted i s) (hc : legalCfg s.cfg) (hp : pinsAllow (pinWrites evs) s.pins = true) :
    ∃ t, exec i s = .next t ∧ 500 * delays evs ≤ minDuration s.cfg (newEvents s t) := by
  obtain ⟨t, ht, hnew, -⟩ := exec_display_completes hi hs ha hp
  exact ⟨t, ht, by rw [hnew]; exact delays_le_minDuration hc evs⟩

/-- A completed operation that sends whole bytes lasts 3 ms or more for each: six delays a byte (rules R181, R254). -/
theorem exec_bytes_minDuration {i : Instr} {s : State} {bytes : List (Byte × Bool)} (hi : bytesOf i = some bytes)
    (hs : s.seq = .idle) (ha : accepted i s) (hc : legalCfg s.cfg) (hp : pinsAllow (13 * bytes.length) s.pins = true) :
    ∃ t, exec i s = .next t ∧ 3000 * bytes.length ≤ minDuration s.cfg (newEvents s t) := by
  rw [← bytesEvents_pinWrites] at hp
  obtain ⟨t, ht, hbound⟩ := exec_display_minDuration (displayEvents_of_bytesOf hi) hs ha hc hp
  obtain ⟨hdelays, -⟩ := bytesEvents_counts bytes
  exact ⟨t, ht, by omega⟩

/-- Settles O46: a strobe has three delays, and the other operations send 1, 1, 6 and 17 bytes. -/
theorem durationsAreBoundedBelow : Obligations.DurationsAreBoundedBelow := by
  intro s hs hready hc hp
  have hallow : ∀ n, n ≤ 221 → pinsAllow n s.pins = true := fun _ hn => pinsAllow_of_le hn hp
  refine ⟨?strobe, fun v isData => ?sendByte, ?clear, ?init, fun text line => ?writeLine⟩
  case strobe => exact exec_display_minDuration (i := .strobe) rfl hs trivial hc (hallow 2 (by decide))
  case sendByte => exact exec_bytes_minDuration (i := .sendByte v isData) rfl hs trivial hc (hallow 13 (by decide))
  case clear => exact exec_bytes_minDuration (i := .lcdClear) rfl hs hready hc (hallow 13 (by decide))
  case init => exact exec_bytes_minDuration (i := .lcdInit) rfl hs trivial hc (hallow 78 (by decide))
  case writeLine =>
    obtain ⟨t, ht, hbound⟩ := exec_bytes_minDuration (i := .lcdWriteLine text line) rfl hs hready hc
      (by rw [lineBytes_length]; exact hp)
    rw [lineBytes_length] at hbound
    exact ⟨t, ht, hbound⟩

end Sys2Proof.ResetProofs
end
